-- ==== Sys2Proof/Config.lean ====
section
/-! DEFINITION. What is fixed for one RCFB: the widths, constants and open parameters of 00_scope.md rules
R5 to R10, each under a name of its own (R11: one place to change after an audit), and the premises on the open
codec (40_codec.md rules R111, R113). -/

namespace Sys2Proof.Config

/-! ## Widths (R5) and the default widths (R9) -/

/-- CTR_W (R5). -/
abbrev ctrW : Nat := 28
/-- FIXED_W (R5). -/
abbrev fixedW : Nat := 40
/-- DATA_W (R5). -/
abbrev dataW : Nat := 32
/-- The default of TIME_W (R9). The width itself is `Params.timeW`. -/
abbrev defaultTimeW : Nat := 32
/-- The default of LOWCOUNT_W (R9). The width itself is `Params.lowCountW`. -/
abbrev defaultLowCountW : Nat := 32

/-! ## Codec and frame constants (R5, R6) -/

/-- DEVICE_ID (R5), a 12-bit value. -/
abbrev deviceId : BitVec 12 := 0x539
/-- FRAME_LEN (R6). -/
abbrev frameLen : Nat := 19
/-- PAYLOAD_LEN (R6). -/
abbrev payloadLen : Nat := 16
/-- PREAMBLE (R6): frame byte 0. -/
abbrev preamble0 : BitVec 8 := 0x55
/-- PREAMBLE (R6): frame byte 1. -/
abbrev preamble1 : BitVec 8 := 0x01
/-- PREAMBLE (R6): frame byte 2. -/
abbrev preamble2 : BitVec 8 := 0x00
/-- The number of preamble bytes (R6, R24: FA_COUNT is 3 on entry to CAPTURING). -/
abbrev preambleLen : Nat := 3

/-! ## Debounce constants in milliseconds (R7) -/

/-- DC_MIN_MS (R7), exclusive. -/
abbrev dcMinMs : Nat := 500
/-- DC_MAX_MS (R7), exclusive. -/
abbrev dcMaxMs : Nat := 10000
/-- STARTUP_GUARD_MS (R7). -/
abbrev startupGuardMs : Nat := 2000
/-- DC_CHANNELS (R7): the number of names of `Machine.Channel`. -/
abbrev dcChannels : Nat := 3

/-! ## Obstruction constants (R8) -/

/-- OB_WINDOW_MS (R8). -/
abbrev obWindowMs : Nat := 50
/-- OB_CLEAR_MIN (R8), inclusive. -/
abbrev obClearMin : Nat := 3
/-- OB_CLEAR_MAX (R8), inclusive. -/
abbrev obClearMax : Nat := 8
/-- OB_HIGH_MS (R8), exclusive. -/
abbrev obHighMs : Nat := 70

/-! ## Protocol opcodes (30_encoding.md R93) -/

/-- The opcode of class STATUS (R93). -/
abbrev opcStatus : BitVec 12 := 0x081
/-- The opcode of class LIGHT_EVT (R93). -/
abbrev opcLightEvt : BitVec 12 := 0x281
/-- The opcode of class IDLE (R93). -/
abbrev opcIdle : BitVec 12 := 0x084
/-- The opcode of class MOTION (R93). -/
abbrev opcMotion : BitVec 12 := 0x285

/-! ## Host timing figures (70_reset_and_hazards.md R250). No rule of RCFB depends on them; 93 I9 asks for names. -/

/-- Pre-transmit pulse, line high, in microseconds (R250). -/
abbrev hostTxHighUs : Nat := 1305
/-- Pre-transmit pulse, line low, in microseconds (R250). -/
abbrev hostTxLowUs : Nat := 1260
/-- Reboot1 to Reboot6 spacing in milliseconds (R250). -/
abbrev hostRebootGapMs : Nat := 65
/-- DoorToggle1 to DoorToggle2 spacing in milliseconds (R250). -/
abbrev hostToggleGapMs : Nat := 40

/-! ## The parameters of R9 -/

/-- DC_CLEAR_POLICY: both values of R9 (42_debounce.md R175). -/
inductive ClearPolicy where
  /-- clears in every DC_TAKE -/
  | always
  /-- clears only when the read returned 1 -/
  | ifSet
  deriving DecidableEq, Repr

/-- CTR_LOAD_OOR: R9 admits one value only. -/
inductive CtrLoadOor where
  /-- a stored value of 2^28 or more faults (40_codec.md R119) -/
  | fault
  deriving DecidableEq, Repr

/-- The four parameters of R9, fixed for one RCFB. State carries them, read and never written, so a statement about every
state is one about every value of them (log entries 1, 2). -/
structure Params where
  /-- TIME_W, the width of the time input -/
  timeW : Nat
  /-- LOWCOUNT_W, the width of the low-pulse counter -/
  lowCountW : Nat
  /-- DC_CLEAR_POLICY -/
  clearPolicy : ClearPolicy
  /-- CTR_LOAD_OOR -/
  ctrLoadOor : CtrLoadOor
  deriving DecidableEq, Repr

/-- Every parameter at the default of R9. -/
def defaults : Params :=
  { timeW := defaultTimeW, lowCountW := defaultLowCountW, clearPolicy := .always, ctrLoadOor := .fault }

/-! ## WIRE_CODEC, the open parameter (R10) -/

/-- The pair WIRE_CODEC of R10. -/
structure WireCodec where
  /-- wc_enc -/
  enc : BitVec ctrW → BitVec fixedW → BitVec dataW → Vector (BitVec 8) payloadLen
  /-- wc_dec, total by its type (CODEC_TOTAL, R112) -/
  dec : Vector (BitVec 8) payloadLen → BitVec ctrW × BitVec fixedW × BitVec dataW

/-- wc_enc of this RCFB (R10): OPEN, so it has no body (log entry 3). -/
opaque wcEnc : BitVec ctrW → BitVec fixedW → BitVec dataW → Vector (BitVec 8) payloadLen
/-- wc_dec of this RCFB (R10): OPEN, so it has no body (log entry 3). -/
opaque wcDec : Vector (BitVec 8) payloadLen → BitVec ctrW × BitVec fixedW × BitVec dataW

/-- WIRE_CODEC of this RCFB. -/
def wireCodec : WireCodec := ⟨wcEnc, wcDec⟩

/-- CTR_DEP_BYTES (R113): the payload bytes that may depend on the counter, frame byte 3 + i listed as i. OPEN
(log entry 4). -/
opaque ctrDepBytes : List (Fin payloadLen)

/-- The named premise CODEC_RT (R111), of a codec. A claim assumes it; the model never does. -/
def CodecRT (wc : WireCodec) : Prop :=
  ∀ c f d, wc.dec (wc.enc c f d) = (c, f, d)

/-- The named premise CODEC_CTRDEP (R113), of a codec and a set of payload bytes. -/
def CodecCtrDep (wc : WireCodec) (dep : List (Fin payloadLen)) : Prop :=
  ∀ c c' f d, ∀ i : Fin payloadLen, i ∉ dep → (wc.enc c f d)[i] = (wc.enc c' f d)[i]

end Sys2Proof.Config
end

