-- ==== Sys2Proof/Word.lean ====
section
/-! DEFINITION. The word types of RCFB: every value is unsigned (00_scope.md R12), a bit vector where the spec fixes its
width; a frame is 19 bytes (R6, 30_encoding.md R88). A time, u(TIME_W), and a low-pulse count, u(LOWCOUNT_W), whose widths
are parameters (R9), are natural numbers below 2^TIME_W and 2^LOWCOUNT_W (log entry 1). -/

namespace Sys2Proof

/-- One byte of the line. -/
abbrev Byte := BitVec 8
/-- A rolling counter value, u28 (R5). -/
abbrev Counter := BitVec Config.ctrW
/-- A fixed field, u40 (R5). -/
abbrev Fixed := BitVec Config.fixedW
/-- A data field, u32 (R5). -/
abbrev Data := BitVec Config.dataW
/-- A 12-bit protocol opcode (30_encoding.md R91). -/
abbrev ProtoOpcode := BitVec 12
/-- The op field of a request, 4 bits (30_encoding.md R81). -/
abbrev OpField := BitVec 4
/-- A whole frame, byte 0 first (20_memory.md R61). -/
abbrev Frame := Vector Byte Config.frameLen
/-- The payload, frame bytes 3 to 18. -/
abbrev Payload := Vector Byte Config.payloadLen

end Sys2Proof
end

