-- ==== Sys2Proof/Syntax.lean ====
section
/-! DEFINITION. The request record and the decoded message as they reach RCFB, and Instr: one constructor for each row
of spec/opcode_table.json (30_encoding.md R82, R93). -/

namespace Sys2Proof

/-- The three request inputs (30_encoding.md R80). -/
inductive Port where
  | main
  | isr
  | rst
  deriving DecidableEq, Repr

/-- The request record (30_encoding.md R81): the fields and widths of its table, in its order. `now` is TIME_W bits wide, a
parameter, so it is a number here (log entry 1). -/
structure Record where
  op      : OpField
  ch      : BitVec 2
  level   : BitVec 1
  hold    : BitVec 1
  present : BitVec 1
  byte    : Byte
  now     : Nat
  fixed   : Fixed
  data    : Data
  value   : BitVec 32
  frame   : Frame
  deriving DecidableEq, Repr

/-- What wc_dec makes of a payload (00_scope.md R10): counter, fixed, data. -/
structure Message where
  ctr   : Counter
  fixed : Fixed
  data  : Data
  deriving DecidableEq, Repr

/-- What RCFB decodes: a record that came on a port, or a message at the delivery point of 40_codec.md R118. -/
inductive Input where
  | request (port : Port) (record : Record)
  | message (msg : Message)
  deriving DecidableEq, Repr

/-- The classes of a protocol opcode (30_encoding.md R93). -/
inductive MsgClass where
  | status
  | lightEvt
  | idle
  | motion
  | other
  deriving DecidableEq, Repr

/-- One constructor for each row of the opcode table. A request carries the port it came on (30_encoding.md R84 decides
by it) and the fields R83 says its op reads. A protocol opcode row carries the bits of the decoded message that the
opcode does not fix: `ctr`, `fixedHi` = fixed[39:36], `fixedLo` = fixed[31:0], `dataHi` = data[31:8] (log entry 13). -/
inductive Instr where
  | reset (port : Port)
  | ctrLoad (port : Port) (present : Bool) (value : BitVec 32)
  | ctrRead (port : Port)
  | enc (port : Port) (fixed : Fixed) (data : Data) (hold : Bool)
  | dec (port : Port) (frame : Frame)
  | faByte (port : Port) (byte : Byte)
  | dcEdge (port : Port) (ch : BitVec 2) (level : Bool) (now : Nat)
  | dcTake (port : Port) (ch : BitVec 2)
  | obEdge (port : Port) (level : Bool) (now : Nat)
  | obEval (port : Port) (level : Bool) (now : Nat)
  | reserved0 (port : Port)
  | reservedB (port : Port)
  | reservedC (port : Port)
  | reservedD (port : Port)
  | reservedE (port : Port)
  | reservedF (port : Port)
  | opcStatus (ctr : Counter) (fixedHi : BitVec 4) (fixedLo : BitVec 32) (dataHi : BitVec 24)
  | opcLightEvt (ctr : Counter) (fixedHi : BitVec 4) (fixedLo : BitVec 32) (dataHi : BitVec 24)
  | opcIdle (ctr : Counter) (fixedHi : BitVec 4) (fixedLo : BitVec 32) (dataHi : BitVec 24)
  | opcMotion (ctr : Counter) (fixedHi : BitVec 4) (fixedLo : BitVec 32) (dataHi : BitVec 24)
  | opcOther (ctr : Counter) (fixed : Fixed) (data : Data)
  deriving DecidableEq, Repr

end Sys2Proof
end

