-- ==== Sys2Proof/Decode.lean ====
section
/-! DEFINITION. Decoding of requests (30_encoding.md R81 to R86) and of decoded messages (R91, R93), the encoder that
goes the other way, and the byte and table-word forms of both. -/

namespace Sys2Proof

/-! ## The op map (R82) -/

/-- The port R82 names for an op; none for a reserved op (R85). -/
def portOf (op : OpField) : Option Port :=
  match op with
  | 0x1#4 => some .rst
  | 0x2#4 => some .main
  | 0x3#4 => some .main
  | 0x4#4 => some .main
  | 0x5#4 => some .main
  | 0x6#4 => some .main
  | 0x7#4 => some .isr
  | 0x8#4 => some .main
  | 0x9#4 => some .isr
  | 0xA#4 => some .main
  | _ => none

/-- A one-bit field as a truth value. -/
def bit (b : BitVec 1) : Bool := b == 1#1

/-- The request a record spells on a port: R82 picks the row, R83 the fields it reads. Total: every op value is a row. -/
def decodeRequest (p : Port) (r : Record) : Instr :=
  match r.op with
  | 0x0#4 => .reserved0 p
  | 0x1#4 => .reset p
  | 0x2#4 => .ctrLoad p (bit r.present) r.value
  | 0x3#4 => .ctrRead p
  | 0x4#4 => .enc p r.fixed r.data (bit r.hold)
  | 0x5#4 => .dec p r.frame
  | 0x6#4 => .faByte p r.byte
  | 0x7#4 => .dcEdge p r.ch (bit r.level) r.now
  | 0x8#4 => .dcTake p r.ch
  | 0x9#4 => .obEdge p (bit r.level) r.now
  | 0xA#4 => .obEval p (bit r.level) r.now
  | 0xB#4 => .reservedB p
  | 0xC#4 => .reservedC p
  | 0xD#4 => .reservedD p
  | 0xE#4 => .reservedE p
  | _ => .reservedF p

/-! ## Protocol opcodes (R91, R93) -/

/-- The protocol opcode of a decoded pair (R91): fixed[35:32] ++ data[7:0]. -/
def protoOpcode (f : Fixed) (d : Data) : ProtoOpcode :=
  f.extractLsb' 32 4 ++ d.extractLsb' 0 8

/-- cls(opc), exact match on all 12 bits (R93). -/
def cls (opc : ProtoOpcode) : MsgClass :=
  if opc = Config.opcStatus then .status
  else if opc = Config.opcLightEvt then .lightEvt
  else if opc = Config.opcIdle then .idle
  else if opc = Config.opcMotion then .motion
  else .other

/-- The message that has a given opcode and, around it, the bits the opcode does not fix (R91). -/
def messageOf (opc : ProtoOpcode) (ctr : Counter) (fixedHi : BitVec 4) (fixedLo : BitVec 32) (dataHi : BitVec 24) :
    Message :=
  { ctr := ctr, fixed := fixedHi ++ opc.extractLsb' 8 4 ++ fixedLo, data := dataHi ++ opc.extractLsb' 0 8 }

/-- The opcode row a message belongs to (R93). -/
def decodeMessage (m : Message) : Instr :=
  match cls (protoOpcode m.fixed m.data) with
  | .status => .opcStatus m.ctr (m.fixed.extractLsb' 36 4) (m.fixed.extractLsb' 0 32) (m.data.extractLsb' 8 24)
  | .lightEvt => .opcLightEvt m.ctr (m.fixed.extractLsb' 36 4) (m.fixed.extractLsb' 0 32) (m.data.extractLsb' 8 24)
  | .idle => .opcIdle m.ctr (m.fixed.extractLsb' 36 4) (m.fixed.extractLsb' 0 32) (m.data.extractLsb' 8 24)
  | .motion => .opcMotion m.ctr (m.fixed.extractLsb' 36 4) (m.fixed.extractLsb' 0 32) (m.data.extractLsb' 8 24)
  | .other => .opcOther m.ctr m.fixed m.data

/-- The one decoder of the model. -/
def decode : Input → Instr
  | .request p r => decodeRequest p r
  | .message m => decodeMessage m

/-- The `now` an instruction carries; none for one without a time (30_encoding.md R83). -/
def Instr.timestamp : Instr → Option Nat
  | .reset _ => none
  | .ctrLoad _ _ _ => none
  | .ctrRead _ => none
  | .enc _ _ _ _ => none
  | .dec _ _ => none
  | .faByte _ _ => none
  | .dcEdge _ _ _ now => some now
  | .dcTake _ _ => none
  | .obEdge _ _ now => some now
  | .obEval _ _ now => some now
  | .reserved0 _ => none
  | .reservedB _ => none
  | .reservedC _ => none
  | .reservedD _ => none
  | .reservedE _ => none
  | .reservedF _ => none
  | .opcStatus _ _ _ _ => none
  | .opcLightEvt _ _ _ _ => none
  | .opcIdle _ _ _ _ => none
  | .opcMotion _ _ _ _ => none
  | .opcOther _ _ _ => none

/-! ## The encoder -/

/-- The record with a given op and every other field 0. -/
def blankRecord (op : OpField) : Record :=
  { op := op, ch := 0, level := 0, hold := 0, present := 0, byte := 0, now := 0, fixed := 0, data := 0, value := 0,
    frame := Vector.replicate Config.frameLen 0 }

/-- The input that spells an instruction, the fields it does not read being 0. -/
def encode : Instr → Input
  | .reset p => .request p (blankRecord 0x1#4)
  | .ctrLoad p present value =>
      .request p { blankRecord 0x2#4 with present := BitVec.ofBool present, value := value }
  | .ctrRead p => .request p (blankRecord 0x3#4)
  | .enc p fixed data hold =>
      .request p { blankRecord 0x4#4 with fixed := fixed, data := data, hold := BitVec.ofBool hold }
  | .dec p frame => .request p { blankRecord 0x5#4 with frame := frame }
  | .faByte p byte => .request p { blankRecord 0x6#4 with byte := byte }
  | .dcEdge p ch level now =>
      .request p { blankRecord 0x7#4 with ch := ch, level := BitVec.ofBool level, now := now }
  | .dcTake p ch => .request p { blankRecord 0x8#4 with ch := ch }
  | .obEdge p level now => .request p { blankRecord 0x9#4 with level := BitVec.ofBool level, now := now }
  | .obEval p level now => .request p { blankRecord 0xA#4 with level := BitVec.ofBool level, now := now }
  | .reserved0 p => .request p (blankRecord 0x0#4)
  | .reservedB p => .request p (blankRecord 0xB#4)
  | .reservedC p => .request p (blankRecord 0xC#4)
  | .reservedD p => .request p (blankRecord 0xD#4)
  | .reservedE p => .request p (blankRecord 0xE#4)
  | .reservedF p => .request p (blankRecord 0xF#4)
  | .opcStatus c hi lo d => .message (messageOf Config.opcStatus c hi lo d)
  | .opcLightEvt c hi lo d => .message (messageOf Config.opcLightEvt c hi lo d)
  | .opcIdle c hi lo d => .message (messageOf Config.opcIdle c hi lo d)
  | .opcMotion c hi lo d => .message (messageOf Config.opcMotion c hi lo d)
  | .opcOther c f d => .message { ctr := c, fixed := f, data := d }

/-! ## Bit and byte forms. DESIGN CHOICE (log entries 11, 14): R81 gives the record's fields and widths but no bit
positions; safe, since no rule depends on them. -/

/-- The bits of a record before its frame: op 3:0, ch 5:4, level 6, hold 7, present 8, byte 23:16, fixed 63:24,
data 95:64, value 127:96. Bits 15:9 are unused. The frame is bits 279:128, frame byte 0 lowest, and `now` stands after it,
since its width is a parameter. -/
abbrev headBits : Nat := 128
/-- The bytes of a record before its frame. -/
abbrev headBytes : Nat := 16
/-- The bytes of a record before `now`. -/
abbrev fixedBytes : Nat := 35
/-- The bytes `now` takes. -/
def nowBytes (timeW : Nat) : Nat := (timeW + 7) / 8
/-- The bytes of a record, at a width of the time input. -/
def recordBytes (timeW : Nat) : Nat := fixedBytes + nowBytes timeW
/-- The bits of a message: data[7:0] 7:0, fixed[35:32] 11:8, fixed[39:36] 15:12, fixed[31:0] 47:16, data[31:8] 71:48,
ctr 99:72. Bits 11:0 are the protocol opcode, as the table numbers them. Bits 103:100 are unused. -/
abbrev messageBits : Nat := 104
/-- A message in bytes. -/
abbrev messageBytes : Nat := 13

/-- The number a byte list spells, least significant byte first. -/
def leNat : List Byte → Nat
  | [] => 0
  | b :: bs => b.toNat + 256 * leNat bs

/-- The first `n` bytes of a number, least significant first. -/
def leBytes : Nat → Nat → List Byte
  | 0, _ => []
  | n + 1, w => BitVec.ofNat 8 w :: leBytes n (w / 256)

/-- A record read out of its bits before the frame, its frame, and its time. -/
def recordOfBits (w : BitVec headBits) (frame : Frame) (now : Nat) : Record :=
  { op := w.extractLsb' 0 4
    ch := w.extractLsb' 4 2
    level := w.extractLsb' 6 1
    hold := w.extractLsb' 7 1
    present := w.extractLsb' 8 1
    byte := w.extractLsb' 16 8
    now := now
    fixed := w.extractLsb' 24 Config.fixedW
    data := w.extractLsb' 64 Config.dataW
    value := w.extractLsb' 96 32
    frame := frame }

/-- The bits of a record before its frame, unused bits 0. -/
def recordToBits (r : Record) : BitVec headBits :=
  r.value ++ r.data ++ r.fixed ++ r.byte ++ (0#7) ++ r.present ++ r.hold ++ r.level ++ r.ch ++ r.op

/-- A record read out of its bytes; of the bytes of `now` the TIME_W low bits count. -/
def recordOfBytes (timeW : Nat) (bs : List Byte) : Record :=
  recordOfBits (BitVec.ofNat headBits (leNat (bs.take headBytes)))
    (Vector.ofFn fun i => bs.getD (headBytes + i.val) 0) (leNat (bs.drop fixedBytes) % 2 ^ timeW)

/-- The bytes of a record. -/
def recordToBytes (timeW : Nat) (r : Record) : List Byte :=
  leBytes headBytes (recordToBits r).toNat ++ r.frame.toList ++ leBytes (nowBytes timeW) r.now

/-- Reading a message out of its bits. -/
def messageOfBits (w : BitVec messageBits) : Message :=
  { ctr := w.extractLsb' 72 Config.ctrW
    fixed := w.extractLsb' 12 4 ++ w.extractLsb' 8 4 ++ w.extractLsb' 16 32
    data := w.extractLsb' 48 24 ++ w.extractLsb' 0 8 }

/-- The bits of a message, unused bits 0. -/
def messageToBits (m : Message) : BitVec messageBits :=
  (0#4) ++ m.ctr ++ m.data.extractLsb' 8 24 ++ m.fixed.extractLsb' 0 32 ++ m.fixed.extractLsb' 36 4 ++
    m.fixed.extractLsb' 32 4 ++ m.data.extractLsb' 0 8

/-- Why bytes spell no input. -/
inductive DecodeError where
  /-- the byte list is not one whole record (R81: every request is one whole record) -/
  | notOneRecord (length : Nat)
  /-- the byte list is not one whole message -/
  | notOneMessage (length : Nat)
  deriving DecidableEq, Repr

/-- A request from its bytes, rejected by name unless they are one whole record. -/
def decodeBytes (timeW : Nat) (p : Port) (bs : List Byte) : Except DecodeError Instr :=
  if bs.length = recordBytes timeW then .ok (decode (.request p (recordOfBytes timeW bs)))
  else .error (.notOneRecord bs.length)

/-- A message from its bytes, rejected by name unless they are one whole message. -/
def decodeMessageBytes (bs : List Byte) : Except DecodeError Instr :=
  if bs.length = messageBytes then .ok (decode (.message (messageOfBits (BitVec.ofNat messageBits (leNat bs)))))
  else .error (.notOneMessage bs.length)

/-- The bytes of an instruction. -/
def encodeBytes (timeW : Nat) (i : Instr) : List Byte :=
  match encode i with
  | .request _ r => recordToBytes timeW r
  | .message m => leBytes messageBytes (messageToBits m).toNat

/-! ## The opcode table's words -/

/-- The port of a table row: the table's "port" for a request, MAIN for a reserved op, whose port is "any". -/
def tablePort (op : OpField) : Port := (portOf op).getD .main

/-- The input an opcode-table word stands for: at most 8 bits is a row of format REQ (a 4-bit op), more is a row of
format PROTO_OPC (a 12-bit opcode). Bits above `nbits` are 0, the time among them (log entry 15). -/
def inputOfTableWord (nbits w : Nat) : Input :=
  if nbits ≤ 8 then
    let r := recordOfBytes Config.defaultTimeW (leBytes (recordBytes Config.defaultTimeW) (w % 2 ^ nbits))
    .request (tablePort r.op) r
  else .message (messageOfBits (BitVec.ofNat messageBits (w % 2 ^ nbits)))

/-- The instruction the decoder reads from an opcode-table word, through its bytes. -/
def decodeTableWord (nbits w : Nat) : Option Instr :=
  if nbits ≤ 8 then
    match decodeBytes Config.defaultTimeW (tablePort (BitVec.ofNat 4 w))
        (leBytes (recordBytes Config.defaultTimeW) (w % 2 ^ nbits)) with
    | .ok i => some i
    | .error _ => none
  else
    match decodeMessageBytes (leBytes messageBytes (w % 2 ^ nbits)) with
    | .ok i => some i
    | .error _ => none

end Sys2Proof
end

