-- ==== Sys2Proof/Machine/State.lean ====
section
/-! DEFINITION. The state of RCFB (10_state.md R20 to R35), the events and responses it gives (30_encoding.md R87,
R96), the host's side of its ports, and the state after reset (70_reset_and_hazards.md R240, R241). -/

namespace Sys2Proof.Machine

/-- The three debounce channels (42_debounce.md R170). -/
inductive Channel where
  | openContact
  | closeContact
  | lightContact
  deriving DecidableEq, Repr

/-- A register with one element for each debounce channel (10_state.md R26, R27, R33). -/
structure PerChannel (α : Type) where
  openContact  : α
  closeContact : α
  lightContact : α
  deriving DecidableEq, Repr

/-- FA_MODE (10_state.md R22). -/
inductive FaMode where
  | scanning
  | capturing
  deriving DecidableEq, Repr

/-- OBST, the ObstructionState (10_state.md R32). The value 3 has no constructor: R32, R40. -/
inductive Obstruction where
  | unknown
  | clear
  | obstructed
  deriving DecidableEq, Repr

/-- What part 1 of a gated OB_EVAL finds, which is what part 2 responds (43_obstruction.md R192). -/
inductive WindowClass where
  | setClear
  | setObstructed
  | asleep
  | noClass
  deriving DecidableEq, Repr

/-- RxMsg (30_encoding.md R96). -/
structure RxMsg where
  ctr   : Counter
  fixed : Fixed
  data  : Data
  opc   : ProtoOpcode
  cls   : MsgClass
  door  : BitVec 4
  light : BitVec 1
  lock  : BitVec 1
  deriving DecidableEq, Repr

/-- The events of OUT (30_encoding.md R96). -/
inductive Event where
  | txFrame (frame : Frame)
  | rxMsg (msg : RxMsg)
  deriving DecidableEq, Repr

/-- The responses of 30_encoding.md R87. -/
inductive Response where
  /-- CTR_LOAD -/
  | ok
  /-- CTR_READ: CTR zero-extended to 32 bits (40_codec.md R120) -/
  | counter (value : BitVec 32)
  /-- ENC: the frame and the counter it used -/
  | encoded (frame : Frame) (ctrUsed : Counter)
  /-- DEC -/
  | accept
  /-- DEC -/
  | discard
  /-- FA_BYTE: shifted in, no match -/
  | scan
  /-- FA_BYTE: the preamble matched -/
  | sync
  /-- FA_BYTE: captured, the frame is not complete -/
  | stored
  /-- FA_BYTE: the byte completed a frame -/
  | frameDone
  /-- DC_EDGE -/
  | guarded
  /-- DC_EDGE -/
  | fall
  /-- DC_EDGE -/
  | latch
  /-- DC_EDGE -/
  | reject
  /-- DC_TAKE: the bit read -/
  | taken (r : Bool)
  /-- OB_EDGE -/
  | low
  /-- OB_EDGE -/
  | high
  /-- OB_EVAL: the gate did not pass -/
  | notDue
  /-- OB_EVAL: the gate passed; SET_CLEAR, SET_OBSTRUCTED, ASLEEP or NO_CLASS -/
  | window (c : WindowClass)
  deriving DecidableEq, Repr

/-- The reasons a request is refused (60_exceptions.md R211). -/
inductive RefuseReason where
  | reservedOp (op : OpField)
  | wrongPort (op : OpField) (port : Port)
  | badChannel (ch : BitVec 2)
  deriving DecidableEq, Repr

/-- The faults a request raises (60_exceptions.md R212). -/
inductive FaultMark where
  /-- code 1, raised by CTR_LOAD; records the value -/
  | counterLoadRange (value : BitVec 32)
  deriving DecidableEq, Repr

/-- Whose step is next: an agent of 60_exceptions.md R220; the delivery point of 40_codec.md R118, which no run of the
spec uses by itself (log entry 13); or the host's transmitter, which starts or finishes the transmit of a frame
(70_reset_and_hazards.md R248, log entry 23). -/
inductive Source where
  | main
  | isr
  | rst
  | delivery
  | lineStart
  | lineEnd
  deriving DecidableEq, Repr

/-- A request as the host issues it: the record, and the reading of the host's clock, milliseconds since the last RESET
without any wrap (60_exceptions.md R221, R222; log entry 16). -/
structure Issued where
  record : Record
  clock : Nat
  deriving DecidableEq, Repr

/-- The state of RCFB: the record of 10_state.md R20, then the model's own fields (the log of responses, the host's
queues, schedule, clock and transmitter, the configuration). -/
structure State where
  /-- CTR (R21) -/
  ctr : Counter
  /-- FA_MODE (R22) -/
  faMode : FaMode
  /-- FA_SHIFT (R23), newest byte in bits 7:0 -/
  faShift : BitVec 24
  /-- FA_COUNT (R24) -/
  faCount : BitVec 5
  /-- FA_BUF[0..18] (R25) -/
  faBuf : Frame
  /-- DC_FALL_TS[ch] (R26), each a number below 2^TIME_W (log entry 1) -/
  dcFallTs : PerChannel Nat
  /-- DC_LATCH[ch] (R27) -/
  dcLatch : PerChannel Bool
  /-- SETTLED (R28) -/
  settled : Bool
  /-- OB_LOW_COUNT (R29), a number below 2^LOWCOUNT_W (log entry 1) -/
  obLowCount : Nat
  /-- OB_LAST_HIGH_TS (R30), a number below 2^TIME_W (log entry 1) -/
  obLastHighTs : Nat
  /-- OB_LAST_EVAL_TS (R31), a number below 2^TIME_W (log entry 1) -/
  obLastEvalTs : Nat
  /-- OBST (R32) -/
  obst : Obstruction
  /-- DC_TAKE_PEND[ch] (R33): `none` is NONE, `some r` is PEND(r) -/
  dcTakePend : PerChannel (Option Bool)
  /-- OB_RST_PEND (R33): `none` is NONE, `some c` is PEND with the response part 2 gives (log entry 10) -/
  obRstPend : Option WindowClass
  /-- FAULT (R34) -/
  fault : List FaultMark
  /-- REFUSED (R34): reason and request -/
  refused : List (RefuseReason × Instr)
  /-- OUT (R35), oldest first -/
  out : List Event
  /-- the model's own: responses returned on MAIN, oldest first (log entry 7) -/
  mainResp : List Response
  /-- the model's own: responses returned on ISR, oldest first (log entry 7) -/
  isrResp : List Response
  /-- the model's own: requests issued on MAIN and not yet taken, oldest first (log entry 8) -/
  mainQ : List Issued
  /-- the model's own: requests issued on ISR and not yet taken (log entry 8) -/
  isrQ : List Issued
  /-- the model's own: requests issued on RST and not yet taken (log entry 8) -/
  rstQ : List Issued
  /-- the model's own: messages placed at the delivery point (log entry 13) -/
  rxQ : List Message
  /-- the model's own: whose step is next, and after that (log entry 8) -/
  sched : List Source
  /-- the model's own: the host's clock at the last timestamped request since RESET, `none` if there is none
  (60_exceptions.md R222, log entry 16) -/
  hostClock : Option Nat
  /-- the model's own: the host is transmitting a frame (70_reset_and_hazards.md R248, log entry 23) -/
  lineBusy : Bool
  /-- the configuration, the parameters of 00_scope.md R9, read and never written (log entries 1, 2) -/
  config : Config.Params
  deriving DecidableEq, Repr

/-- Why a step answers no next state. -/
inductive Fault where
  /-- Every meaning and every step raises it when FAULT or REFUSED is non-empty: RCFB then takes no further step on any
  port (60_exceptions.md R213). Safe: the hardware of the spec is stuck there too. -/
  | quiescent
  /-- Raised by step alone, when the host issues a timestamped request that breaks its duty on time: RCFB's model gives
  such a host no move (60_exceptions.md R222, 92_eei_decisions.md D23). Safe for a host that keeps the duty; unsafe for one
  that does not, whose runs the spec leaves out. -/
  | hostBrokeTime
  /-- Raised by step alone, when the host starts a transmit before the previous one has finished: no move
  (70_reset_and_hazards.md R248, 92_eei_decisions.md D23). Safe and unsafe as `hostBrokeTime`. -/
  | hostOverlappedTransmits
  deriving DecidableEq, Repr

/-- Why an instruction has no meaning. -/
inductive Refusal where
  /-- Raised by exec's arm of an instruction that has no meaning yet; no arm raises it now. Safe. -/
  | notModelled (mnemonic : String)
  deriving DecidableEq, Repr

/-- What a step of RCFB answers. -/
abbrev Result := Host.Outcome State Fault Refusal

/-- The same value for each channel. -/
def PerChannel.all {α : Type} (a : α) : PerChannel α := ⟨a, a, a⟩

/-- The machine right after reset at power-on (70_reset_and_hazards.md R240, R241); the model's own fields are empty,
and the configuration is the defaults of 00_scope.md R9. -/
def State.reset : State :=
  { ctr := 0
    faMode := .scanning
    faShift := 0
    faCount := 0
    faBuf := Vector.replicate Config.frameLen 0
    dcFallTs := .all 0
    dcLatch := .all false
    settled := false
    obLowCount := 0
    obLastHighTs := 0
    obLastEvalTs := 0
    obst := .unknown
    dcTakePend := .all none
    obRstPend := none
    fault := []
    refused := []
    out := []
    mainResp := []
    isrResp := []
    mainQ := []
    isrQ := []
    rstQ := []
    rxQ := []
    sched := []
    hostClock := none
    lineBusy := false
    config := Config.defaults }

end Sys2Proof.Machine
end

