-- ==== Sys2Proof/Machine/Operands.lean ====
section
/-! DEFINITION. Operand forms: the channel field, elements of channel registers, frames and payloads
(40_codec.md R110, R118), the fields of a message (30_encoding.md R91, R92), elapsed time (00_scope.md R15). -/

namespace Sys2Proof.Machine

/-- The channel a field names; none for the reserved value 3 (30_encoding.md R81, R86). -/
def channelOf (ch : BitVec 2) : Option Channel :=
  match ch with
  | 0#2 => some .openContact
  | 1#2 => some .closeContact
  | 2#2 => some .lightContact
  | _ => none

/-- The number of a channel (42_debounce.md R170). -/
def Channel.code : Channel → BitVec 2
  | .openContact => 0
  | .closeContact => 1
  | .lightContact => 2

/-- NAME[ch] of a channel register (00_scope.md R14). -/
def PerChannel.get {α : Type} (v : PerChannel α) : Channel → α
  | .openContact => v.openContact
  | .closeContact => v.closeContact
  | .lightContact => v.lightContact

/-- NAME[ch] <- a of a channel register (00_scope.md R14). -/
def PerChannel.set {α : Type} (v : PerChannel α) (ch : Channel) (a : α) : PerChannel α :=
  match ch with
  | .openContact => { v with openContact := a }
  | .closeContact => { v with closeContact := a }
  | .lightContact => { v with lightContact := a }

/-- fixed | zext_40(DEVICE_ID), the fixed field ENC builds a frame with (40_codec.md R114). -/
def withDeviceId (f : Fixed) : Fixed := f ||| Config.deviceId.setWidth Config.fixedW

/-- frame_of(c, f, d) of a codec: the preamble, then the payload (40_codec.md R110). -/
def frameOf (wc : Config.WireCodec) (c : Counter) (f : Fixed) (d : Data) : Frame :=
  (#v[Config.preamble0, Config.preamble1, Config.preamble2] : Vector Byte Config.preambleLen) ++ wc.enc c f d

/-- payload(fr) = fr[3..18] (40_codec.md R110). -/
def payload (fr : Frame) : Payload :=
  Vector.ofFn fun i =>
    fr[Config.preambleLen + i.val]'(by
      have h : i.val < 16 := i.isLt
      change 3 + i.val < 19
      omega)

/-- The triple wc_dec reads from a frame's payload (40_codec.md R118). -/
def decodedOf (wc : Config.WireCodec) (fr : Frame) : Message :=
  { ctr := (wc.dec (payload fr)).1, fixed := (wc.dec (payload fr)).2.1, data := (wc.dec (payload fr)).2.2 }

/-- The RxMsg of a decoded message (30_encoding.md R91 to R93, R96; 40_codec.md R118). The numbering of data bytes is
the spec's decision D14. -/
def rxMsgOf (m : Message) : RxMsg :=
  { ctr := m.ctr
    fixed := m.fixed
    data := m.data
    opc := protoOpcode m.fixed m.data
    cls := cls (protoOpcode m.fixed m.data)
    door := m.data.extractLsb' 8 4
    light := m.data.extractLsb' 25 1
    lock := m.data.extractLsb' 24 1 }

/-- Elapsed time (now - t) mod 2^TIME_W (00_scope.md R15, 42_debounce.md R173). -/
def elapsed (timeW : Nat) (now t : Nat) : Nat := (now + 2 ^ timeW - t % 2 ^ timeW) % 2 ^ timeW

end Sys2Proof.Machine
end

