-- ==== Sys2Proof/Machine/Flags.lean ====
section
/-! DEFINITION. The conditions RCFB decides by, and what the flags and OBST become (10_state.md R39): the preamble match,
the startup guard, the press window, the obstruction gate and classification. -/

namespace Sys2Proof.Machine

/-- preamble_ok(fr): exactly the three preamble bytes (40_codec.md R117). -/
def preambleOk (fr : Frame) : Bool :=
  fr[0] == Config.preamble0 && fr[1] == Config.preamble1 && fr[2] == Config.preamble2

/-- FA_SHIFT after a byte has been shifted in (41_frame_assembler.md R150, 20_memory.md R62). -/
def shiftIn (shift : BitVec 24) (b : Byte) : BitVec 24 := (shift <<< 8) ||| b.setWidth 24

/-- The value of FA_SHIFT that matches the preamble, 0x550100: the byte received first is highest (20_memory.md R62). -/
def preambleShift : BitVec 24 := Config.preamble0 ++ Config.preamble1 ++ Config.preamble2

/-- What settle(now) makes of SETTLED (42_debounce.md R177). -/
def settledAfter (settled : Bool) (now : Nat) : Bool :=
  settled || decide (Config.startupGuardMs ≤ now)

/-- DC_MIN_MS < e < DC_MAX_MS, both bounds exclusive (42_debounce.md R171, R173). -/
def inPressWindow (e : Nat) : Bool :=
  decide (Config.dcMinMs < e) && decide (e < Config.dcMaxMs)

/-- Whether part 2 of DC_TAKE clears the latch, r being the bit part 1 read (42_debounce.md R174, R175). -/
def clearsLatch (policy : Config.ClearPolicy) (r : Bool) : Bool :=
  policy == .always || r

/-- The OB_EVAL gate: more than OB_WINDOW_MS since the last evaluation that passed (43_obstruction.md R191). -/
def windowDue (timeW : Nat) (now lastEval : Nat) : Bool :=
  decide (Config.obWindowMs < elapsed timeW now lastEval)

/-- The class of a window (43_obstruction.md R192). -/
def classify (timeW : Nat) (n : Nat) (level : Bool) (now lastHigh : Nat) : WindowClass :=
  if Config.obClearMin ≤ n ∧ n ≤ Config.obClearMax then .setClear
  else if n = 0 then
    if level = true ∧ Config.obHighMs < elapsed timeW now lastHigh then .setObstructed else .asleep
  else .noClass

/-- What OBST becomes under a class (43_obstruction.md R192, R194). -/
def obstAfter (old : Obstruction) : WindowClass → Obstruction
  | .setClear => .clear
  | .setObstructed => .obstructed
  | .asleep => old
  | .noClass => old

/-- The numeric code of FA_MODE (10_state.md R22). -/
def FaMode.code : FaMode → BitVec 1
  | .scanning => 0
  | .capturing => 1

/-- The numeric code of OBST (10_state.md R32). -/
def Obstruction.code : Obstruction → BitVec 2
  | .unknown => 0
  | .clear => 1
  | .obstructed => 2

/-- The code of a fault (60_exceptions.md R212). -/
def FaultMark.code : FaultMark → Nat
  | .counterLoadRange _ => 1

end Sys2Proof.Machine
end

