-- ==== Sys2Proof/Machine/Ops.lean ====
section
/-! DEFINITION. The operations every meaning is made of: register writes, respond, emit, raise and refuse
(00_scope.md R14, R16), quiescence and the admission of a request (60_exceptions.md R211 to R215), delivery of a
decoded frame (40_codec.md R118). There is no trap entry and no return from one (60_exceptions.md R218, R219): `raise`
and `refuse` record the mark, and from then on `gate` lets nothing happen. -/

namespace Sys2Proof.Machine

/-! ## Register writes (10_state.md R14, R21 to R33) -/

def State.setCtr (c : Counter) (s : State) : State := { s with ctr := c }

/-- The four frame-assembler registers at once (R22 to R25). -/
def State.setFa (mode : FaMode) (shift : BitVec 24) (count : BitVec 5) (buf : Frame) (s : State) : State :=
  { s with faMode := mode, faShift := shift, faCount := count, faBuf := buf }

def State.setFallTs (ch : Channel) (t : Nat) (s : State) : State := { s with dcFallTs := s.dcFallTs.set ch t }

def State.setLatch (ch : Channel) (b : Bool) (s : State) : State := { s with dcLatch := s.dcLatch.set ch b }

def State.setTakePend (ch : Channel) (p : Option Bool) (s : State) : State :=
  { s with dcTakePend := s.dcTakePend.set ch p }

def State.setLowCount (n : Nat) (s : State) : State := { s with obLowCount := n }

def State.setLastHigh (t : Nat) (s : State) : State := { s with obLastHighTs := t }

def State.setLastEval (t : Nat) (s : State) : State := { s with obLastEvalTs := t }

def State.setObst (o : Obstruction) (s : State) : State := { s with obst := o }

def State.setRstPend (p : Option WindowClass) (s : State) : State := { s with obRstPend := p }

/-- settle(now), the first write of every timestamped request (42_debounce.md R177). -/
def State.settle (now : Nat) (s : State) : State := { s with settled := settledAfter s.settled now }

/-- Every register at its reset value (70_reset_and_hazards.md R240); the time input restarts, so the host's clock has no
earlier reading (R243); OUT, FAULT, REFUSED and what else belongs to the host stay. -/
def State.resetRegs (s : State) : State :=
  { s with
    ctr := 0, faMode := .scanning, faShift := 0, faCount := 0, faBuf := Vector.replicate Config.frameLen 0,
    dcFallTs := .all 0, dcLatch := .all false, settled := false, obLowCount := 0, obLastHighTs := 0,
    obLastEvalTs := 0, obst := .unknown, dcTakePend := .all none, obRstPend := none, hostClock := none }

/-! ## Outputs (00_scope.md R16) -/

/-- emit E: append to OUT (10_state.md R35). -/
def State.emit (e : Event) (s : State) : State := { s with out := s.out ++ [e] }

/-- respond v to a request of MAIN (30_encoding.md R87). -/
def State.respondMain (r : Response) (s : State) : State := { s with mainResp := s.mainResp ++ [r] }

/-- respond v to a request of ISR (30_encoding.md R87). -/
def State.respondIsr (r : Response) (s : State) : State := { s with isrResp := s.isrResp ++ [r] }

/-- raise a fault: record it in FAULT, write nothing else (60_exceptions.md R212). -/
def State.raise (f : FaultMark) (s : State) : State := { s with fault := s.fault ++ [f] }

/-- refuse a request: record reason and request in REFUSED, write nothing else (60_exceptions.md R211). -/
def State.refuse (why : RefuseReason) (i : Instr) (s : State) : State := { s with refused := s.refused ++ [(why, i)] }

/-! ## The host's side of the ports (20_memory.md R70, log entry 8) -/

/-- One place of the schedule is used up. -/
def State.advance (s : State) : State := { s with sched := s.sched.tail }

def State.setMainQ (q : List Issued) (s : State) : State := { s with mainQ := q }

def State.setIsrQ (q : List Issued) (s : State) : State := { s with isrQ := q }

def State.setRstQ (q : List Issued) (s : State) : State := { s with rstQ := q }

def State.setRxQ (q : List Message) (s : State) : State := { s with rxQ := q }

def State.setHostClock (c : Option Nat) (s : State) : State := { s with hostClock := c }

def State.setLineBusy (b : Bool) (s : State) : State := { s with lineBusy := b }

/-! ## Taking a request -/

/-- RCFB takes no step: FAULT or REFUSED is non-empty (60_exceptions.md R213). -/
def State.quiescent (s : State) : Bool := !(s.fault.isEmpty && s.refused.isEmpty)

/-- One atomic step with a given effect, unless the block is quiescent (60_exceptions.md R213). -/
def gate (effect : State → State) (s : State) : Result :=
  if s.quiescent then .fault .quiescent else .next (effect s)

/-- A request of a non-reserved op: refused with WrongPort unless it came on the port R82 names (30_encoding.md R84);
the checks of its own come after (60_exceptions.md R215). -/
def onPort (op : OpField) (p : Port) (i : Instr) (effect : State → State) (s : State) : State :=
  if portOf op = some p then effect s else s.refuse (.wrongPort op p) i

/-- A request that names a channel: refused with BadChannel when it names none (30_encoding.md R86). -/
def withChannel (ch : BitVec 2) (i : Instr) (effect : Channel → State → State) (s : State) : State :=
  match channelOf ch with
  | some c => effect c s
  | none => s.refuse (.badChannel ch) i

/-- A request that carries a time: the time input is TIME_W bits wide, and of `now` those bits arrive
(60_exceptions.md R221, log entry 1). -/
def withTime (now : Nat) (effect : Nat → State → State) (s : State) : State :=
  effect (now % 2 ^ s.config.timeW) s

/-- A reserved op (30_encoding.md R85, 60_exceptions.md R211, R215: before the port is looked at). -/
def refuseReserved (op : OpField) (i : Instr) (s : State) : State := s.refuse (.reservedOp op) i

/-! ## Delivery (40_codec.md R118) -/

/-- Delivery of a decoded message: one RxMsg; no register is written. -/
def State.deliverMessage (m : Message) (s : State) : State := s.emit (.rxMsg (rxMsgOf m))

/-- deliver(fr): decode the payload and deliver what it says. -/
def State.deliver (wc : Config.WireCodec) (fr : Frame) (s : State) : State := s.deliverMessage (decodedOf wc fr)

/-! ## The pending second part of a MAIN request (10_state.md R33) -/

/-- The channel that holds PEND(r) in DC_TAKE_PEND, with its bit. -/
def firstPending (p : PerChannel (Option Bool)) : Option (Channel × Bool) :=
  match p.openContact, p.closeContact, p.lightContact with
  | some r, _, _ => some (.openContact, r)
  | none, some r, _ => some (.closeContact, r)
  | none, none, some r => some (.lightContact, r)
  | none, none, none => none

/-- The channel whose DC_TAKE is between its two parts, with the bit part 1 read. -/
def State.pendingTake (s : State) : Option (Channel × Bool) := firstPending s.dcTakePend

end Sys2Proof.Machine
end

