-- ==== Sys2Proof/Machine/Codec.lean ====
section
/-! DEFINITION. The codec requests CTR_LOAD, CTR_READ, ENC, DEC (40_codec.md). What uses WIRE_CODEC takes it as an
argument, so that a claim can be made of every codec; a meaning applies it to `Config.wireCodec`. -/

namespace Sys2Proof.Machine

/-- The body of CTR_LOAD (R119); what a value of 2^28 or more does is CTR_LOAD_OOR (00_scope.md R9). -/
def ctrLoadEffect (present : Bool) (value : BitVec 32) (s : State) : State :=
  if present = false then (s.setCtr 0).respondMain .ok
  else if value.toNat < 2 ^ Config.ctrW then (s.setCtr (value.setWidth Config.ctrW)).respondMain .ok
  else
    match s.config.ctrLoadOor with
    | .fault => s.raise (.counterLoadRange value)

/-- CTR_LOAD (R119). -/
def execCtrLoad (p : Port) (present : Bool) (value : BitVec 32) (s : State) : Result :=
  gate (onPort 0x2#4 p (.ctrLoad p present value) (ctrLoadEffect present value)) s

/-- The body of CTR_READ (R120). -/
def ctrReadEffect (s : State) : State := s.respondMain (.counter (s.ctr.setWidth 32))

/-- CTR_READ (R120). -/
def execCtrRead (p : Port) (s : State) : Result :=
  gate (onPort 0x3#4 p (.ctrRead p) ctrReadEffect) s

/-- CTR after an ENC (R115): one more modulo 2^28, or unchanged when hold is set. -/
def ctrAfter (hold : Bool) (c : Counter) : Counter := if hold then c else c + 1

/-- The body of ENC (R114). -/
def encEffect (wc : Config.WireCodec) (fixed : Fixed) (data : Data) (hold : Bool) (s : State) : State :=
  let fr := frameOf wc s.ctr (withDeviceId fixed) data
  ((s.emit (.txFrame fr)).setCtr (ctrAfter hold s.ctr)).respondMain (.encoded fr s.ctr)

/-- ENC (R114). -/
def execEnc (p : Port) (fixed : Fixed) (data : Data) (hold : Bool) (s : State) : Result :=
  gate (onPort 0x4#4 p (.enc p fixed data hold) (encEffect Config.wireCodec fixed data hold)) s

/-- The body of DEC (R116). -/
def decEffect (wc : Config.WireCodec) (frame : Frame) (s : State) : State :=
  if preambleOk frame then (s.deliver wc frame).respondMain .accept else s.respondMain .discard

/-- DEC (R116). -/
def execDec (p : Port) (frame : Frame) (s : State) : Result :=
  gate (onPort 0x5#4 p (.dec p frame) (decEffect Config.wireCodec frame)) s

end Sys2Proof.Machine
end

