-- ==== Sys2Proof/Machine/Debounce.lean ====
section
/-! DEFINITION. The contact debouncers, DC_EDGE and DC_TAKE (42_debounce.md). -/

namespace Sys2Proof.Machine

/-- The body of DC_EDGE on a channel (R171, R172): settle, then the guard, then the edge. Settle writes SETTLED only, so
DC_FALL_TS is read as it was. -/
def dcEdgeEffect (level : Bool) (ch : Channel) (now : Nat) (s : State) : State :=
  if settledAfter s.settled now = false then (s.settle now).respondIsr .guarded
  else if level = false then ((s.settle now).setFallTs ch now).respondIsr .fall
  else if inPressWindow (elapsed s.config.timeW now (s.dcFallTs.get ch)) then
    ((s.settle now).setLatch ch true).respondIsr .latch
  else (s.settle now).respondIsr .reject

/-- DC_EDGE (R171). -/
def execDcEdge (p : Port) (ch : BitVec 2) (level : Bool) (now : Nat) (s : State) : Result :=
  gate
    (onPort 0x7#4 p (.dcEdge p ch level now)
      (withChannel ch (.dcEdge p ch level now) fun c => withTime now (dcEdgeEffect level c))) s

/-- Part 1 of DC_TAKE, the read (R174): the request is then in progress. -/
def dcTakeRead (ch : Channel) (s : State) : State := s.setTakePend ch (some (s.dcLatch.get ch))

/-- Part 2 of DC_TAKE, the clear (R174, R175), with the bit `r` part 1 read. -/
def dcTakeFinish (ch : Channel) (r : Bool) (s : State) : State :=
  let latch := if clearsLatch s.config.clearPolicy r then false else s.dcLatch.get ch
  ((s.setLatch ch latch).setTakePend ch none).respondMain (.taken r)

/-- DC_TAKE up to its split point (R174); `dcTakeFinish` is MAIN's next step. -/
def execDcTake (p : Port) (ch : BitVec 2) (s : State) : Result :=
  gate (onPort 0x8#4 p (.dcTake p ch) (withChannel ch (.dcTake p ch) dcTakeRead)) s

end Sys2Proof.Machine
end

