-- ==== Sys2Proof/Machine/FrameAssembler.lean ====
section
/-! DEFINITION. FA_BYTE, the frame assembler (41_frame_assembler.md R150 to R152). -/

namespace Sys2Proof.Machine

/-- FA_BUF on entry to CAPTURING: the preamble in elements 0 to 2, the rest as it was (R150). -/
def withPreamble (buf : Frame) : Frame :=
  ((buf.set 0 Config.preamble0).set 1 Config.preamble1).set 2 Config.preamble2

/-- FA_BYTE while SCANNING (R150). -/
def faScan (b : Byte) (s : State) : State :=
  if shiftIn s.faShift b = preambleShift then
    (s.setFa .capturing (shiftIn s.faShift b) (BitVec.ofNat 5 Config.preambleLen) (withPreamble s.faBuf)).respondMain
      .sync
  else (s.setFa .scanning (shiftIn s.faShift b) s.faCount s.faBuf).respondMain .scan

/-- complete(): deliver the frame and go back to SCANNING (R152). -/
def faComplete (wc : Config.WireCodec) (buf : Frame) (s : State) : State :=
  ((s.deliver wc buf).setFa .scanning 0 0 buf).respondMain .frameDone

/-- FA_BUF after a byte has been captured at FA_COUNT (R151). DESIGN CHOICE (log entry 17): a count above 18, which no
run reaches, stores nothing. -/
def captured (buf : Frame) (count : BitVec 5) (b : Byte) : Frame := buf.setIfInBounds count.toNat b

/-- FA_BYTE while CAPTURING (R150, R151). -/
def faCapture (wc : Config.WireCodec) (b : Byte) (s : State) : State :=
  if s.faCount + 1 = BitVec.ofNat 5 Config.frameLen then faComplete wc (captured s.faBuf s.faCount b) s
  else (s.setFa .capturing s.faShift (s.faCount + 1) (captured s.faBuf s.faCount b)).respondMain .stored

/-- The body of FA_BYTE (R150). -/
def faByteEffect (wc : Config.WireCodec) (b : Byte) (s : State) : State :=
  match s.faMode with
  | .scanning => faScan b s
  | .capturing => faCapture wc b s

/-- FA_BYTE (R150). -/
def execFaByte (p : Port) (b : Byte) (s : State) : Result :=
  gate (onPort 0x6#4 p (.faByte p b) (faByteEffect Config.wireCodec b)) s

end Sys2Proof.Machine
end

