-- ==== Sys2Proof/Machine/Obstruction.lean ====
section
/-! DEFINITION. The obstruction-beam pulse counter, OB_EDGE and OB_EVAL (43_obstruction.md). -/

namespace Sys2Proof.Machine

/-- The body of OB_EDGE (R190). -/
def obEdgeEffect (level : Bool) (now : Nat) (s : State) : State :=
  if level then ((s.settle now).setLastHigh now).respondIsr .high
  else ((s.settle now).setLowCount ((s.obLowCount + 1) % 2 ^ s.config.lowCountW)).respondIsr .low

/-- OB_EDGE (R190). -/
def execObEdge (p : Port) (level : Bool) (now : Nat) (s : State) : Result :=
  gate (onPort 0x9#4 p (.obEdge p level now) (withTime now (obEdgeEffect level))) s

/-- Part 1 of an OB_EVAL that passed its gate: classify, write OBST and OB_LAST_EVAL_TS, and leave part 2 pending
(R192). OB_LAST_HIGH_TS is not reset (90_conflicts.md C1). -/
def obEvalClassify (c : WindowClass) (now : Nat) (s : State) : State :=
  ((s.setObst (obstAfter s.obst c)).setLastEval now).setRstPend (some c)

/-- Part 2 of a gated OB_EVAL, the window reset (R193), with the class part 1 found. -/
def obEvalFinish (c : WindowClass) (s : State) : State :=
  ((s.setLowCount 0).setRstPend none).respondMain (.window c)

/-- The body of OB_EVAL up to its split point (R191, R192). Settle writes SETTLED only, so the obstruction registers are
read as they were. -/
def obEvalEffect (level : Bool) (now : Nat) (s : State) : State :=
  if windowDue s.config.timeW now s.obLastEvalTs then
    obEvalClassify (classify s.config.timeW s.obLowCount level now s.obLastHighTs) now (s.settle now)
  else (s.settle now).respondMain .notDue

/-- OB_EVAL up to its split point (R191, R192); `obEvalFinish` is MAIN's next step when the gate passed. -/
def execObEval (p : Port) (level : Bool) (now : Nat) (s : State) : Result :=
  gate (onPort 0xA#4 p (.obEval p level now) (withTime now (obEvalEffect level))) s

end Sys2Proof.Machine
end

