-- ==== Sys2Proof/Machine/Protocol.lean ====
section
/-! DEFINITION. The protocol opcode rows (30_encoding.md R93): the delivery of a decoded message that has that opcode
(40_codec.md R118). DEC and a completed FA_BYTE run the same delivery. -/

namespace Sys2Proof.Machine

/-- OPC_STATUS, 0x081 (R93). -/
def execOpcStatus (c : Counter) (hi : BitVec 4) (lo : BitVec 32) (d : BitVec 24) (s : State) : Result :=
  gate (State.deliverMessage (messageOf Config.opcStatus c hi lo d)) s
/-- OPC_LIGHT_EVT, 0x281 (R93). -/
def execOpcLightEvt (c : Counter) (hi : BitVec 4) (lo : BitVec 32) (d : BitVec 24) (s : State) : Result :=
  gate (State.deliverMessage (messageOf Config.opcLightEvt c hi lo d)) s
/-- OPC_IDLE, 0x084 (R93). -/
def execOpcIdle (c : Counter) (hi : BitVec 4) (lo : BitVec 32) (d : BitVec 24) (s : State) : Result :=
  gate (State.deliverMessage (messageOf Config.opcIdle c hi lo d)) s
/-- OPC_MOTION, 0x285 (R93). -/
def execOpcMotion (c : Counter) (hi : BitVec 4) (lo : BitVec 32) (d : BitVec 24) (s : State) : Result :=
  gate (State.deliverMessage (messageOf Config.opcMotion c hi lo d)) s
/-- OPC_OTHER, any other opcode: not an error, the event is still emitted (R93). -/
def execOpcOther (c : Counter) (f : Fixed) (d : Data) (s : State) : Result :=
  gate (State.deliverMessage { ctr := c, fixed := f, data := d }) s

end Sys2Proof.Machine
end

