-- ==== Sys2Proof/Machine/Reserved.lean ====
section
/-! DEFINITION. The reserved ops 0x0 and 0xB to 0xF: each is refused with ReservedOp(op), on any port, and recorded
(30_encoding.md R85, 60_exceptions.md R211, R215). -/

namespace Sys2Proof.Machine

/-- op 0x0 (R85). -/
def execReserved0 (p : Port) (s : State) : Result := gate (refuseReserved 0x0#4 (.reserved0 p)) s
/-- op 0xB (R85). -/
def execReservedB (p : Port) (s : State) : Result := gate (refuseReserved 0xB#4 (.reservedB p)) s
/-- op 0xC (R85). -/
def execReservedC (p : Port) (s : State) : Result := gate (refuseReserved 0xC#4 (.reservedC p)) s
/-- op 0xD (R85). -/
def execReservedD (p : Port) (s : State) : Result := gate (refuseReserved 0xD#4 (.reservedD p)) s
/-- op 0xE (R85). -/
def execReservedE (p : Port) (s : State) : Result := gate (refuseReserved 0xE#4 (.reservedE p)) s
/-- op 0xF (R85). -/
def execReservedF (p : Port) (s : State) : Result := gate (refuseReserved 0xF#4 (.reservedF p)) s

end Sys2Proof.Machine
end

