-- ==== Sys2Proof/Machine/Reset.lean ====
section
/-! DEFINITION. RESET (70_reset_and_hazards.md R240). -/

namespace Sys2Proof.Machine

/-- RESET: every register at its reset value, a pending second part dropped, no response (R240, 30_encoding.md R87). -/
def execReset (p : Port) (s : State) : Result :=
  gate (onPort 0x1#4 p (.reset p) State.resetRegs) s

end Sys2Proof.Machine
end

