-- ==== Sys2Proof/Machine/Dispatch.lean ====
section
/-! DEFINITION. One arm for each constructor of Instr, each one call of its meaning. -/

namespace Sys2Proof.Machine

def exec (i : Instr) (s : State) : Host.Outcome State Fault Refusal :=
  match i with
  | .reset p => Sys2Proof.Machine.execReset p s
  | .ctrLoad p present value => Sys2Proof.Machine.execCtrLoad p present value s
  | .ctrRead p => Sys2Proof.Machine.execCtrRead p s
  | .enc p fixed data hold => Sys2Proof.Machine.execEnc p fixed data hold s
  | .dec p frame => Sys2Proof.Machine.execDec p frame s
  | .faByte p byte => Sys2Proof.Machine.execFaByte p byte s
  | .dcEdge p ch level now => Sys2Proof.Machine.execDcEdge p ch level now s
  | .dcTake p ch => Sys2Proof.Machine.execDcTake p ch s
  | .obEdge p level now => Sys2Proof.Machine.execObEdge p level now s
  | .obEval p level now => Sys2Proof.Machine.execObEval p level now s
  | .reserved0 p => Sys2Proof.Machine.execReserved0 p s
  | .reservedB p => Sys2Proof.Machine.execReservedB p s
  | .reservedC p => Sys2Proof.Machine.execReservedC p s
  | .reservedD p => Sys2Proof.Machine.execReservedD p s
  | .reservedE p => Sys2Proof.Machine.execReservedE p s
  | .reservedF p => Sys2Proof.Machine.execReservedF p s
  | .opcStatus c hi lo d => Sys2Proof.Machine.execOpcStatus c hi lo d s
  | .opcLightEvt c hi lo d => Sys2Proof.Machine.execOpcLightEvt c hi lo d s
  | .opcIdle c hi lo d => Sys2Proof.Machine.execOpcIdle c hi lo d s
  | .opcMotion c hi lo d => Sys2Proof.Machine.execOpcMotion c hi lo d s
  | .opcOther c f d => Sys2Proof.Machine.execOpcOther c f d s

end Sys2Proof.Machine
end

