-- ==== Sys2Proof/Machine/Fetch.lean ====
section
/-! DEFINITION. Which atomic step comes next (20_memory.md R69, R70), how the host issues requests (30_encoding.md R80),
what a host that breaks its duties gets (60_exceptions.md R222, 70_reset_and_hazards.md R248), and how an opcode-table
word is placed so that the next step runs it. -/

namespace Sys2Proof.Machine

/-- The next atomic step: a request that is taken, the pending second part of a MAIN request, nothing to do, or none
because the host broke a duty. -/
inductive Action where
  | take (i : Instr)
  | finishTake (ch : Channel) (r : Bool)
  | finishEval (c : WindowClass)
  | idle
  | noMove (why : Fault)
  deriving DecidableEq, Repr

/-! ## The host's duty on time (60_exceptions.md R221, R222; log entry 16) -/

/-- A reading of the host's clock does not decrease, and is less than 2^TIME_W ms after the last timestamped request
(R222); the first after RESET has none before it. -/
def clockFollows (timeW clock : Nat) : Option Nat → Bool
  | none => true
  | some last => decide (last ≤ clock) && decide (clock < last + 2 ^ timeW)

/-- The host may issue this instruction at this reading of its clock: `now` is the reading modulo 2^TIME_W (R221), and the
reading follows the last one (R222). An instruction without a time is free of this duty. -/
def State.timeLawful (s : State) (i : Instr) (clock : Nat) : Bool :=
  match i.timestamp with
  | none => true
  | some now =>
      decide (now % 2 ^ s.config.timeW = clock % 2 ^ s.config.timeW) &&
        clockFollows s.config.timeW clock s.hostClock

/-- The host's clock after it has issued an instruction. -/
def State.tick (i : Instr) (clock : Nat) (s : State) : State :=
  match i.timestamp with
  | none => s
  | some _ => s.setHostClock (some clock)

/-- The earliest lawful reading of the host's clock at which a request may carry `now`. -/
def State.clockFor (s : State) (now : Nat) : Nat :=
  match s.hostClock with
  | none => now
  | some last => last + elapsed s.config.timeW now last

/-- An instruction the host has issued at a reading of its clock is taken, unless that breaks the duty on time. -/
def takeAt (i : Instr) (clock : Nat) (s : State) : Action × State :=
  if s.timeLawful i clock then (.take i, s.tick i clock) else (.noMove .hostBrokeTime, s)

/-! ## The next atomic step -/

/-- MAIN's next step: finish the request in progress, else take the next one issued (20_memory.md R70). -/
def fetchMain (s : State) : Action × State :=
  match s.pendingTake, s.obRstPend with
  | some (ch, r), _ => (.finishTake ch r, s)
  | none, some c => (.finishEval c, s)
  | none, none =>
    match s.mainQ with
    | [] => (.idle, s)
    | x :: q => takeAt (decode (.request .main x.record)) x.clock (s.setMainQ q)

/-- ISR's next step: ISR requests are atomic and taken in issue order (20_memory.md R70). -/
def fetchIsr (s : State) : Action × State :=
  match s.isrQ with
  | [] => (.idle, s)
  | x :: q => takeAt (decode (.request .isr x.record)) x.clock (s.setIsrQ q)

/-- RST's next step (30_encoding.md R80). -/
def fetchRst (s : State) : Action × State :=
  match s.rstQ with
  | [] => (.idle, s)
  | x :: q => takeAt (decode (.request .rst x.record)) x.clock (s.setRstQ q)

/-- The delivery point's next message (log entry 13). -/
def fetchDelivery (s : State) : Action × State :=
  match s.rxQ with
  | [] => (.idle, s)
  | m :: q => (.take (decode (.message m)), s.setRxQ q)

/-- The host starts to transmit a frame: not before the previous one has finished (70_reset_and_hazards.md R248, log entry
23). RCFB itself does nothing. -/
def fetchLineStart (s : State) : Action × State :=
  if s.lineBusy then (.noMove .hostOverlappedTransmits, s) else (.idle, s.setLineBusy true)

/-- The host's transmit is finished (log entry 23). A transmit cannot be cancelled (70_reset_and_hazards.md R248). -/
def fetchLineEnd (s : State) : Action × State := (.idle, s.setLineBusy false)

/-- Whose step is next: the schedule's head, and MAIN, the main loop, when the schedule lists no more (log entry 8). -/
def State.nextSource (s : State) : Source := s.sched.headD .main

/-- The next atomic step, and the state with its place in the schedule and its request used up. -/
def fetch (s : State) : Action × State :=
  match s.nextSource with
  | .main => fetchMain s.advance
  | .isr => fetchIsr s.advance
  | .rst => fetchRst s.advance
  | .delivery => fetchDelivery s.advance
  | .lineStart => fetchLineStart s.advance
  | .lineEnd => fetchLineEnd s.advance

/-- No move for the host, `why` naming the duty it broke; a quiescent block stays quiescent (60_exceptions.md R213). -/
def noMove (why : Fault) (s : State) : Result :=
  if s.quiescent then .fault .quiescent else .fault why

/-- One atomic step of RCFB. -/
def perform : Action × State → Result
  | (.take i, s) => exec i s
  | (.finishTake ch r, s) => gate (dcTakeFinish ch r) s
  | (.finishEval c, s) => gate (obEvalFinish c) s
  | (.idle, s) => gate id s
  | (.noMove why, s) => noMove why s

/-! ## Issuing and placing -/

/-- The host issues a request on a port at a reading of its clock: it waits behind those issued before (20_memory.md
R70). -/
def State.issue (p : Port) (x : Issued) (s : State) : State :=
  match p with
  | .main => s.setMainQ (s.mainQ ++ [x])
  | .isr => s.setIsrQ (s.isrQ ++ [x])
  | .rst => s.setRstQ (s.rstQ ++ [x])

/-- An input placed so that the very next step takes it: first of its queue, first of the schedule, at a lawful reading of
the host's clock, and, for MAIN, no other request in progress (log entry 15). -/
def State.place (inp : Input) (s : State) : State :=
  match inp with
  | .request .main r =>
      { s with
        sched := .main :: s.sched, mainQ := ⟨r, s.clockFor r.now⟩ :: s.mainQ
        dcTakePend := .all none, obRstPend := none }
  | .request .isr r => { s with sched := .isr :: s.sched, isrQ := ⟨r, s.clockFor r.now⟩ :: s.isrQ }
  | .request .rst r => { s with sched := .rst :: s.sched, rstQ := ⟨r, s.clockFor r.now⟩ :: s.rstQ }
  | .message m => { s with sched := .delivery :: s.sched, rxQ := m :: s.rxQ }

end Sys2Proof.Machine
end

