-- ==== Sys2Proof/Machine/Step.lean ====
section
/-! DEFINITION. One step of RCFB: fetch the next atomic step (20_memory.md R70) and perform it. -/

namespace Sys2Proof.Machine

def step (s : State) : Host.Outcome State Fault Refusal := perform (fetch s)

/-- `s` with the instruction an opcode-table word stands for placed as the very next step (log entry 15). -/
def State.withFetchWord (s : State) (nbits w : Nat) : State := s.place (inputOfTableWord nbits w)

end Sys2Proof.Machine
end

