-- ==== Sys2Proof/Machine/Pseudo.lean ====
section
/-! DEFINITION. The pseudo-requests of the request syntax and the real requests each expands to (30_encoding.md R94).
The host's 40 ms wait inside DOORTOGGLE is the host's (70_reset_and_hazards.md R250). -/

namespace Sys2Proof.Machine

/-- The pseudo-requests (R94). -/
inductive Pseudo where
  | doorToggle (f1 : Fixed) (d1 : Data) (f2 : Fixed) (d2 : Data)
  | faFeed (bytes : List Byte)
  | dcPoll
  | loadCtr (value : Option (BitVec 32))
  deriving DecidableEq, Repr

/-- The requests a pseudo-request stands for, in order, all on MAIN (R94). -/
def Pseudo.expand : Pseudo → List Instr
  | .doorToggle f1 d1 f2 d2 => [.enc .main f1 d1 true, .enc .main f2 d2 false]
  | .faFeed bytes => bytes.map (.faByte .main)
  | .dcPoll => [.dcTake .main 0, .dcTake .main 1, .dcTake .main 2]
  | .loadCtr (some v) => [.ctrLoad .main true v]
  | .loadCtr none => [.ctrLoad .main false 0]

/-- The host issues what an instruction encodes, at the time it carries; a message goes to the delivery point. No
pseudo-request expands to a timestamped request. -/
def State.issueInstr (i : Instr) (s : State) : State :=
  match encode i with
  | .request p r => s.issue p ⟨r, r.now⟩
  | .message m => s.setRxQ (s.rxQ ++ [m])

/-- The host issues a pseudo-request: its expansion, in order. -/
def State.issuePseudo (p : Pseudo) (s : State) : State :=
  p.expand.foldl (fun s i => s.issueInstr i) s

end Sys2Proof.Machine
end

