-- ==== Sys2Proof/WellFormed.lean ====
section
/-! DEFINITION. When an instruction spells something RCFB gives a meaning to (30_encoding.md R84 to R86), and when it
is one the decoder can answer. -/

namespace Sys2Proof

/-- A channel field that names a channel: 3 is reserved (30_encoding.md R86). -/
def legalChannel (ch : BitVec 2) : Bool := ch != 3#2

/-- The request is on the port R82 names, its channel is legal and its op is not reserved (R84 to R86); an OPC_OTHER
message has none of the four named opcodes (R93). -/
def Instr.wellFormed : Instr → Bool
  | .reset p => p == .rst
  | .ctrLoad p _ _ => p == .main
  | .ctrRead p => p == .main
  | .enc p _ _ _ => p == .main
  | .dec p _ => p == .main
  | .faByte p _ => p == .main
  | .dcEdge p ch _ _ => p == .isr && legalChannel ch
  | .dcTake p ch => p == .main && legalChannel ch
  | .obEdge p _ _ => p == .isr
  | .obEval p _ _ => p == .main
  | .reserved0 _ => false
  | .reservedB _ => false
  | .reservedC _ => false
  | .reservedD _ => false
  | .reservedE _ => false
  | .reservedF _ => false
  | .opcStatus _ _ _ _ => true
  | .opcLightEvt _ _ _ _ => true
  | .opcIdle _ _ _ _ => true
  | .opcMotion _ _ _ _ => true
  | .opcOther _ f d => cls (protoOpcode f d) == .other

/-- What the decoder can answer: everything but an OPC_OTHER message that has a named opcode. Weaker than
`wellFormed`: requests that RCFB refuses are spelled by words too. -/
def Instr.encodable : Instr → Bool
  | .reset _ => true
  | .ctrLoad _ _ _ => true
  | .ctrRead _ => true
  | .enc _ _ _ _ => true
  | .dec _ _ => true
  | .faByte _ _ => true
  | .dcEdge _ _ _ _ => true
  | .dcTake _ _ => true
  | .obEdge _ _ _ => true
  | .obEval _ _ _ => true
  | .reserved0 _ => true
  | .reservedB _ => true
  | .reservedC _ => true
  | .reservedD _ => true
  | .reservedE _ => true
  | .reservedF _ => true
  | .opcStatus _ _ _ _ => true
  | .opcLightEvt _ _ _ _ => true
  | .opcIdle _ _ _ _ => true
  | .opcMotion _ _ _ _ => true
  | .opcOther _ f d => cls (protoOpcode f d) == .other

end Sys2Proof
end

