-- ==== Sys2Proof/Safety.lean ====
section
/-! DEFINITION. What counts as a safe state and a safe run, and the invariants claims are stated with (10_state.md R40,
60_exceptions.md R213, 42_debounce.md R172, 20_memory.md R70). -/

namespace Sys2Proof.Machine

/-- FAULT and REFUSED are empty: the premise of every claim about a run (60_exceptions.md R213). -/
abbrev State.Live (s : State) : Prop := s.fault = [] ∧ s.refused = []

/-- The frame-assembler invariant of 10_state.md R40. -/
abbrev State.FaInv (s : State) : Prop :=
  (s.faMode = .scanning → s.faCount = 0) ∧
  (s.faMode = .capturing →
    3 ≤ s.faCount.toNat ∧ s.faCount.toNat ≤ 18 ∧
      s.faBuf[0] = 0x55 ∧ s.faBuf[1] = 0x01 ∧ s.faBuf[2] = 0x00)

/-- FA_SHIFT holds the preamble exactly while CAPTURING (41_frame_assembler.md R150, R152, R154). -/
abbrev State.ShiftInv (s : State) : Prop :=
  s.faShift = 0x550100#24 ↔ s.faMode = .capturing

/-- How many MAIN requests are between their two parts (10_state.md R33). -/
def State.pendingCount (s : State) : Nat :=
  s.dcTakePend.openContact.toList.length + s.dcTakePend.closeContact.toList.length +
    s.dcTakePend.lightContact.toList.length + s.obRstPend.toList.length

/-- MAIN takes one request at a time (20_memory.md R70). -/
abbrev State.PendInv (s : State) : Prop := s.pendingCount ≤ 1

/-- Before the startup guard ends no falling edge is recorded and no latch is set or read as set (42_debounce.md
R172). -/
abbrev State.GuardInv (s : State) : Prop :=
  s.settled = false →
    s.dcFallTs = .all 0 ∧ s.dcLatch = .all false ∧
      s.dcTakePend.openContact ≠ some true ∧ s.dcTakePend.closeContact ≠ some true ∧
        s.dcTakePend.lightContact ≠ some true

/-- Every register whose width is a parameter holds a value of that width (00_scope.md R9, 10_state.md R26, R29 to R31). -/
abbrev State.WidthInv (s : State) : Prop :=
  s.dcFallTs.openContact < 2 ^ s.config.timeW ∧ s.dcFallTs.closeContact < 2 ^ s.config.timeW ∧
    s.dcFallTs.lightContact < 2 ^ s.config.timeW ∧ s.obLastHighTs < 2 ^ s.config.timeW ∧
      s.obLastEvalTs < 2 ^ s.config.timeW ∧ s.obLowCount < 2 ^ s.config.lowCountW

/-- The value a fault records is one the counter cannot hold (60_exceptions.md R212). -/
def FaultMark.outOfRange : FaultMark → Bool
  | .counterLoadRange v => decide (2 ^ 28 ≤ v.toNat)

/-- At most one fault or refusal is ever recorded; a recorded fault is out of range, a refused request is one RCFB
gives no meaning to (60_exceptions.md R211 to R213). -/
abbrev State.MarkInv (s : State) : Prop :=
  s.fault.length + s.refused.length ≤ 1 ∧
    (∀ f ∈ s.fault, f.outOfRange = true) ∧
      (∀ x ∈ s.refused, x.2.wellFormed = false)

/-- Instructions executed one after another, stopping where one answers no next state. Parts 2 of split requests are
not among them: `step` takes those. -/
def execAll : List Instr → State → Result
  | [], s => .next s
  | i :: is, s =>
    match exec i s with
    | .next t => execAll is t
    | .fault r => .fault r
    | .refused r => .refused r

/-- Bytes fed to the frame assembler one after another (30_encoding.md R94, FA_FEED). -/
def feed (bs : List Byte) (s : State) : Result := execAll (bs.map (Instr.faByte .main)) s

end Sys2Proof.Machine
end

