-- ==== Sys2Proof/Certificates/Slice0/Obligations.lean ====
section
/-! DEFINITION. The statements for the provers. Each is written from the numbered rules of spec/ with the spec's own
numbers in it, so that a wrong constant or operation of the model makes it false. A result statement gives the whole
next state as an update of the old one: what the update does not name is unchanged, which is the frame. RCFB has no
memory and no program counter (20_memory.md R60, 10_state.md R37), so no statement speaks of either. Responses stand in
the logs mainResp and isrResp, requests that wait in queues, and whose turn it is in the schedule: these carriers are the
model's own (log entries 7, 8), what goes into them is the rules'. The widths TIME_W and LOWCOUNT_W and the policy
DC_CLEAR_POLICY are fields of `config`, so each statement is about every value of them. -/

open Sys2Proof Sys2Proof.Machine

/-! ## Helpers, read straight from the spec's tables -/

/-- The frame of (c, f, d) under the codec of this RCFB (40_codec.md R110). -/
def Sys2Proof.Spec.frame (c : Counter) (f : Fixed) (d : Data) : Frame :=
  (#v[0x55#8, 0x01#8, 0x00#8] : Vector Byte 3) ++ Config.wcEnc c f d

/-- The class table of 30_encoding.md R93. -/
def Sys2Proof.Spec.classOf (opc : BitVec 12) : MsgClass :=
  if opc = 0x081#12 then .status
  else if opc = 0x281#12 then .lightEvt
  else if opc = 0x084#12 then .idle
  else if opc = 0x285#12 then .motion
  else .other

/-- The RxMsg event of a decoded triple (30_encoding.md R91 to R93, R96; 40_codec.md R118). -/
def Sys2Proof.Spec.rxMsg (c : Counter) (f : Fixed) (d : Data) : Event :=
  .rxMsg
    { ctr := c, fixed := f, data := d
      opc := f.extractLsb' 32 4 ++ d.extractLsb' 0 8
      cls := Sys2Proof.Spec.classOf (f.extractLsb' 32 4 ++ d.extractLsb' 0 8)
      door := d.extractLsb' 8 4, light := d.extractLsb' 25 1, lock := d.extractLsb' 24 1 }

/-- What deliver(fr) emits: the payload is frame bytes 3 to 18 (40_codec.md R110, R118). -/
def Sys2Proof.Spec.delivered (fr : Frame) : Event :=
  let p : Payload := Vector.ofFn fun i : Fin 16 => fr[3 + i.val]'(by have h := i.isLt; change 3 + i.val < 19; omega)
  Sys2Proof.Spec.rxMsg (Config.wcDec p).1 (Config.wcDec p).2.1 (Config.wcDec p).2.2

/-- The op number and the arrival port of a request (30_encoding.md R82); none for a protocol opcode row. -/
def Sys2Proof.Spec.opAndPort : Instr → Option (BitVec 4 × Port)
  | .reset p => some (0x1#4, p)
  | .ctrLoad p _ _ => some (0x2#4, p)
  | .ctrRead p => some (0x3#4, p)
  | .enc p _ _ _ => some (0x4#4, p)
  | .dec p _ => some (0x5#4, p)
  | .faByte p _ => some (0x6#4, p)
  | .dcEdge p _ _ _ => some (0x7#4, p)
  | .dcTake p _ => some (0x8#4, p)
  | .obEdge p _ _ => some (0x9#4, p)
  | .obEval p _ _ => some (0xA#4, p)
  | .reserved0 p => some (0x0#4, p)
  | .reservedB p => some (0xB#4, p)
  | .reservedC p => some (0xC#4, p)
  | .reservedD p => some (0xD#4, p)
  | .reservedE p => some (0xE#4, p)
  | .reservedF p => some (0xF#4, p)
  | .opcStatus _ _ _ _ => none
  | .opcLightEvt _ _ _ _ => none
  | .opcIdle _ _ _ _ => none
  | .opcMotion _ _ _ _ => none
  | .opcOther _ _ _ => none

/-- The port R82 names for each op that is not reserved (30_encoding.md R82, R84). -/
def Sys2Proof.Spec.namedPort (op : BitVec 4) : Option Port :=
  if op = 0x1#4 then some .rst
  else if op = 0x7#4 ∨ op = 0x9#4 then some .isr
  else if op = 0x0#4 ∨ 0xB#4 ≤ op then none
  else some .main

/-- Two records agree on op and on the fields R83 lists for that op. -/
def Sys2Proof.Spec.sameRead (r r' : Record) : Prop :=
  r.op = r'.op ∧
  (r.op = 0x2#4 → r.present = r'.present ∧ r.value = r'.value) ∧
  (r.op = 0x4#4 → r.fixed = r'.fixed ∧ r.data = r'.data ∧ r.hold = r'.hold) ∧
  (r.op = 0x5#4 → r.frame = r'.frame) ∧
  (r.op = 0x6#4 → r.byte = r'.byte) ∧
  (r.op = 0x7#4 → r.ch = r'.ch ∧ r.level = r'.level ∧ r.now = r'.now) ∧
  (r.op = 0x8#4 → r.ch = r'.ch) ∧
  (r.op = 0x9#4 → r.level = r'.level ∧ r.now = r'.now) ∧
  (r.op = 0xA#4 → r.level = r'.level ∧ r.now = r'.now)

/-- The bits of `now` that arrive at a TIME_W-bit time input (60_exceptions.md R221, log entry 1). -/
abbrev Sys2Proof.Spec.seen (s : State) (now : Nat) : Nat := now % 2 ^ s.config.timeW

/-- Elapsed time: the difference, as integers, modulo 2^TIME_W (00_scope.md R15). -/
def Sys2Proof.Spec.since (s : State) (now t : Nat) : Nat := (((now : Int) - t) % 2 ^ s.config.timeW).toNat

/-- The host keeps its duty on time when it issues an instruction at a reading of its clock: `now` is the reading modulo
2^TIME_W, and the reading does not decrease and is less than 2^TIME_W ms after the last one (60_exceptions.md R221,
R222). The clock without a wrap is the model's own (log entry 16). -/
def Sys2Proof.Spec.TimeKept (s : State) (i : Instr) (clock : Nat) : Prop :=
  ∀ now, i.timestamp = some now →
    now % 2 ^ s.config.timeW = clock % 2 ^ s.config.timeW ∧
      ∀ last, s.hostClock = some last → last ≤ clock ∧ clock < last + 2 ^ s.config.timeW

/-- The step takes `i`, issued at `clock`, on `u` with the clock read; a host that breaks the duty on time has no move. -/
def Sys2Proof.Spec.Takes (s : State) (i : Instr) (clock : Nat) (u : State) : Prop :=
  (Sys2Proof.Spec.TimeKept s i clock →
    step s = exec i { u with hostClock := if i.timestamp = none then s.hostClock else some clock }) ∧
  (s.Live → ¬ Sys2Proof.Spec.TimeKept s i clock → step s = .fault .hostBrokeTime)

/-- What 10_state.md R36 lets ISR write: everything else is unchanged, latches and SETTLED are only ever set. -/
def Sys2Proof.Spec.IsrFrame (s t : State) : Prop :=
  t.ctr = s.ctr ∧ t.faMode = s.faMode ∧ t.faShift = s.faShift ∧ t.faCount = s.faCount ∧ t.faBuf = s.faBuf ∧
  t.obLastEvalTs = s.obLastEvalTs ∧ t.obst = s.obst ∧ t.dcTakePend = s.dcTakePend ∧ t.obRstPend = s.obRstPend ∧
  t.out = s.out ∧ t.mainResp = s.mainResp ∧ t.fault = s.fault ∧ t.config = s.config ∧
  (∀ ch, s.dcLatch.get ch = true → t.dcLatch.get ch = true) ∧ (s.settled = true → t.settled = true)

/-- What 10_state.md R36 lets MAIN write: everything else is unchanged, latches and OB_LOW_COUNT are only ever cleared,
SETTLED is only ever set. -/
def Sys2Proof.Spec.MainFrame (s t : State) : Prop :=
  t.dcFallTs = s.dcFallTs ∧ t.obLastHighTs = s.obLastHighTs ∧ t.isrResp = s.isrResp ∧ t.config = s.config ∧
  (∀ ch, t.dcLatch.get ch = true → s.dcLatch.get ch = true) ∧
  (t.obLowCount = s.obLowCount ∨ t.obLowCount = 0) ∧ (s.settled = true → t.settled = true)

/-- What the contact requests leave: the codec, the frame assembler, OUT, FAULT and the obstruction registers. -/
def Sys2Proof.Spec.ContactFrame (s t : State) : Prop :=
  t.ctr = s.ctr ∧ t.faMode = s.faMode ∧ t.faShift = s.faShift ∧ t.faCount = s.faCount ∧ t.faBuf = s.faBuf ∧
  t.out = s.out ∧ t.fault = s.fault ∧ t.obLowCount = s.obLowCount ∧ t.obLastHighTs = s.obLastHighTs ∧
  t.obLastEvalTs = s.obLastEvalTs ∧ t.obst = s.obst ∧ t.obRstPend = s.obRstPend

/-- What the obstruction requests leave: the codec, the frame assembler, OUT, FAULT and the contact registers. -/
def Sys2Proof.Spec.ObstructionFrame (s t : State) : Prop :=
  t.ctr = s.ctr ∧ t.faMode = s.faMode ∧ t.faShift = s.faShift ∧ t.faCount = s.faCount ∧ t.faBuf = s.faBuf ∧
  t.out = s.out ∧ t.fault = s.fault ∧ t.dcFallTs = s.dcFallTs ∧ t.dcLatch = s.dcLatch ∧
  t.dcTakePend = s.dcTakePend

/-- Nothing of a MAIN request is pending (10_state.md R33). -/
abbrev Sys2Proof.Spec.NonePending (s : State) : Prop :=
  s.dcTakePend = ⟨none, none, none⟩ ∧ s.obRstPend = none

/-! ## Decoding -/

/-- Decoding an encoded instruction gives it back, for every instruction the decoder can answer, the refused ones
among them (30_encoding.md sections 1, 2, 4). -/
def Obligations.DecodeInvertsEncode : Prop :=
  ∀ i : Instr, i.encodable = true → decode (encode i) = i

/-- The same through bytes, for a request and for a message, at every width of the time input that holds the request's
time. The bit positions are the model's own (log entries 11, 14). -/
def Obligations.ByteDecodeInvertsByteEncode : Prop :=
  ∀ (timeW : Nat) (i : Instr), i.encodable = true → (∀ now, i.timestamp = some now → now < 2 ^ timeW) →
    (∀ op p, Spec.opAndPort i = some (op, p) → decodeBytes timeW p (encodeBytes timeW i) = .ok i) ∧
    (Spec.opAndPort i = none → decodeMessageBytes (encodeBytes timeW i) = .ok i)

/-- On one port, two records spell the same request exactly when they agree on op and on the fields the op reads
(30_encoding.md R83). -/
def Obligations.DecoderReadsExactlyTheListedFields : Prop :=
  ∀ (p : Port) (r r' : Record), decode (.request p r) = decode (.request p r') ↔ Spec.sameRead r r'

/-- A few words written out from the op map and the opcode table decode to their rows (30_encoding.md R82, R93). The model's
own are: the bit positions above bit 3 (log entry 11), the port a table word is given, MAIN for a reserved op (log entry
12), a protocol opcode row as an instruction (log entry 13), the layout of a message (log entry 14), and that a word of
more than 8 bits is such a row (log entry 15). -/
def Obligations.WrittenWordsDecode : Prop :=
  decodeTableWord 8 0x01 = some (.reset .rst) ∧
  decodeTableWord 8 0x03 = some (.ctrRead .main) ∧
  decodeTableWord 8 0x84 = some (.enc .main 0 0 true) ∧
  decodeTableWord 8 0x67 = some (.dcEdge .isr 2 true 0) ∧
  decodeTableWord 8 0x18 = some (.dcTake .main 1) ∧
  decodeTableWord 8 0x0C = some (.reservedC .main) ∧
  decodeTableWord 16 0x0281 = some (.opcLightEvt 0 0 0 0)

/-- The op map's ports (30_encoding.md R82, R85). -/
def Obligations.OpMapPorts : Prop :=
  ∀ op : BitVec 4, portOf op = Spec.namedPort op

/-- The protocol opcode is the source's formula (30_encoding.md R91). -/
def Obligations.ProtocolOpcodeIsTheFormula : Prop :=
  ∀ (f : Fixed) (d : Data),
    (protoOpcode f d).toNat = ((f.toNat >>> 24) &&& 0xF00) ||| (d.toNat &&& 0xFF)

/-- Classes are an exact match on all 12 bits (30_encoding.md R93). -/
def Obligations.OpcodeClassTable : Prop :=
  ∀ opc : ProtoOpcode,
    (cls opc = .status ↔ opc = 0x081#12) ∧ (cls opc = .lightEvt ↔ opc = 0x281#12) ∧
    (cls opc = .idle ↔ opc = 0x084#12) ∧ (cls opc = .motion ↔ opc = 0x285#12) ∧
    (cls opc = .other ↔ opc ≠ 0x081#12 ∧ opc ≠ 0x281#12 ∧ opc ≠ 0x084#12 ∧ opc ≠ 0x285#12)

/-! ## What each request does, and that it does nothing else -/

/-- RESET (70_reset_and_hazards.md R240): every register at its reset value, the time input restarted (the host's clock,
the model's own carrier, has no reading, log entry 16); OUT, FAULT, REFUSED, the responses and the host's queues stay. -/
def Obligations.ResetGivesTheResetState : Prop :=
  ∀ s : State, s.Live →
    exec (.reset .rst) s = .next
      { s with
        ctr := 0, faMode := .scanning, faShift := 0, faCount := 0, faBuf := Vector.replicate 19 0
        dcFallTs := ⟨0, 0, 0⟩, dcLatch := ⟨false, false, false⟩, dcTakePend := ⟨none, none, none⟩
        settled := false, obLowCount := 0, obLastHighTs := 0, obLastEvalTs := 0, obst := .unknown, obRstPend := none
        hostClock := none }

/-- CTR_LOAD (40_codec.md R119). -/
def Obligations.CtrLoadResult : Prop :=
  ∀ (s : State) (v : BitVec 32), s.Live →
    exec (.ctrLoad .main false v) s = .next { s with ctr := 0, mainResp := s.mainResp ++ [.ok] } ∧
    (v.toNat < 2 ^ 28 →
      exec (.ctrLoad .main true v) s =
        .next { s with ctr := v.extractLsb' 0 28, mainResp := s.mainResp ++ [.ok] }) ∧
    (2 ^ 28 ≤ v.toNat →
      exec (.ctrLoad .main true v) s = .next { s with fault := s.fault ++ [.counterLoadRange v] })

/-- CTR_READ (40_codec.md R120). -/
def Obligations.CtrReadResult : Prop :=
  ∀ s : State, s.Live →
    exec (.ctrRead .main) s = .next { s with mainResp := s.mainResp ++ [.counter (BitVec.ofNat 32 s.ctr.toNat)] }

/-- ENC (40_codec.md R114, R115). -/
def Obligations.EncResult : Prop :=
  ∀ (s : State) (f : Fixed) (d : Data), s.Live →
    exec (.enc .main f d false) s = .next
      { s with
        out := s.out ++ [.txFrame (Spec.frame s.ctr (f ||| 0x539#40) d)]
        ctr := BitVec.ofNat 28 ((s.ctr.toNat + 1) % 2 ^ 28)
        mainResp := s.mainResp ++ [.encoded (Spec.frame s.ctr (f ||| 0x539#40) d) s.ctr] } ∧
    exec (.enc .main f d true) s = .next
      { s with
        out := s.out ++ [.txFrame (Spec.frame s.ctr (f ||| 0x539#40) d)]
        mainResp := s.mainResp ++ [.encoded (Spec.frame s.ctr (f ||| 0x539#40) d) s.ctr] }

/-- DEC (40_codec.md R116 to R118). -/
def Obligations.DecResult : Prop :=
  ∀ (s : State) (fr : Frame), s.Live →
    exec (.dec .main fr) s = .next
      (if fr[0] = 0x55#8 ∧ fr[1] = 0x01#8 ∧ fr[2] = 0x00#8 then
        { s with out := s.out ++ [Spec.delivered fr], mainResp := s.mainResp ++ [.accept] }
      else { s with mainResp := s.mainResp ++ [.discard] })

/-- FA_BYTE while SCANNING (41_frame_assembler.md R150). -/
def Obligations.FaByteScanningResult : Prop :=
  ∀ (s : State) (b : Byte), s.Live → s.faMode = .scanning →
    exec (.faByte .main b) s = .next
      (if (s.faShift <<< 8) ||| b.setWidth 24 = 0x550100#24 then
        { s with
          faShift := (s.faShift <<< 8) ||| b.setWidth 24
          faBuf := ((s.faBuf.set 0 0x55).set 1 0x01).set 2 0x00, faCount := 3, faMode := .capturing
          mainResp := s.mainResp ++ [.sync] }
      else
        { s with faShift := (s.faShift <<< 8) ||| b.setWidth 24, mainResp := s.mainResp ++ [.scan] })

/-- FA_BYTE while CAPTURING: stored at FA_BUF[FA_COUNT], and at the nineteenth byte complete() (41_frame_assembler.md
R151, R152). The premise on FA_COUNT is the spec's invariant of 10_state.md R40, `StepKeepsFaInvariant`. -/
def Obligations.FaByteCapturingResult : Prop :=
  ∀ (s : State) (b : Byte) (n : Nat) (h : n < 19), s.Live → s.faMode = .capturing → s.faCount.toNat = n → 3 ≤ n →
    exec (.faByte .main b) s = .next
      (if n = 18 then
        { s with
          faBuf := s.faBuf.set n b, out := s.out ++ [Spec.delivered (s.faBuf.set n b)]
          faMode := .scanning, faCount := 0, faShift := 0, mainResp := s.mainResp ++ [.frameDone] }
      else
        { s with
          faBuf := s.faBuf.set n b, faCount := BitVec.ofNat 5 (n + 1), mainResp := s.mainResp ++ [.stored] })

/-- DC_EDGE (42_debounce.md R171 to R173, R177), for every TIME_W. Of `now` the TIME_W low bits arrive (log entry 1). -/
def Obligations.DcEdgeResult : Prop :=
  ∀ (s : State) (ch : Channel) (level : Bool) (now : Nat), s.Live →
    exec (.dcEdge .isr ch.code level now) s = .next
      (if s.settled = false ∧ Spec.seen s now < 2000 then { s with isrResp := s.isrResp ++ [.guarded] }
      else if level = false then
        { s with settled := true, dcFallTs := s.dcFallTs.set ch (Spec.seen s now), isrResp := s.isrResp ++ [.fall] }
      else if 500 < Spec.since s now (s.dcFallTs.get ch) ∧ Spec.since s now (s.dcFallTs.get ch) < 10000 then
        { s with settled := true, dcLatch := s.dcLatch.set ch true, isrResp := s.isrResp ++ [.latch] }
      else { s with settled := true, isrResp := s.isrResp ++ [.reject] })

/-- DC_TAKE, both parts with nothing between them: the read, then, as MAIN's next step, the clear and the response
(42_debounce.md R174, R175). `step` and MAIN's turn are the model's own carriers (log entry 8). -/
def Obligations.DcTakeResult : Prop :=
  ∀ (s : State) (ch : Channel), s.Live → Spec.NonePending s →
    exec (.dcTake .main ch.code) s = .next { s with dcTakePend := s.dcTakePend.set ch (some (s.dcLatch.get ch)) } ∧
    (s.nextSource = .main →
      step { s with dcTakePend := s.dcTakePend.set ch (some (s.dcLatch.get ch)) } = .next
        { s with
          sched := s.sched.tail
          dcLatch :=
            if s.config.clearPolicy = .always ∨ s.dcLatch.get ch = true then s.dcLatch.set ch false else s.dcLatch
          mainResp := s.mainResp ++ [.taken (s.dcLatch.get ch)] })

/-- OB_EDGE (43_obstruction.md R190), for every TIME_W and LOWCOUNT_W. Of `now` the TIME_W low bits arrive (log entry
1). -/
def Obligations.ObEdgeResult : Prop :=
  ∀ (s : State) (now : Nat), s.Live →
    exec (.obEdge .isr true now) s = .next
      { s with
        settled := s.settled || decide (2000 ≤ Spec.seen s now), obLastHighTs := Spec.seen s now
        isrResp := s.isrResp ++ [.high] } ∧
    exec (.obEdge .isr false now) s = .next
      { s with
        settled := s.settled || decide (2000 ≤ Spec.seen s now)
        obLowCount := (s.obLowCount + 1) % 2 ^ s.config.lowCountW, isrResp := s.isrResp ++ [.low] }

/-- OB_EVAL whose gate does not pass (43_obstruction.md R191), for every TIME_W. Of `now` the TIME_W low bits arrive (log
entry 1). -/
def Obligations.ObEvalNotDueResult : Prop :=
  ∀ (s : State) (level : Bool) (now : Nat), s.Live → Spec.since s now s.obLastEvalTs ≤ 50 →
    exec (.obEval .main level now) s = .next
      { s with
        settled := s.settled || decide (2000 ≤ Spec.seen s now), mainResp := s.mainResp ++ [.notDue] }

/-- OB_EVAL whose gate passes, both parts with nothing between them: classification, then, as MAIN's next step, the
window reset and the response (43_obstruction.md R192, R193), for every TIME_W. Of `now` the TIME_W low bits arrive (log
entry 1). `step` and MAIN's turn are the model's own carriers (log entry 8). -/
def Obligations.ObEvalGatedResult : Prop :=
  ∀ (s : State) (level : Bool) (now : Nat), s.Live → Spec.NonePending s → 50 < Spec.since s now s.obLastEvalTs →
    ∃ c : WindowClass, ∃ o : Obstruction,
      ((3 ≤ s.obLowCount ∧ s.obLowCount ≤ 8) ∧ c = .setClear ∧ o = .clear ∨
        (s.obLowCount = 0 ∧ level = true ∧ 70 < Spec.since s now s.obLastHighTs) ∧
          c = .setObstructed ∧ o = .obstructed ∨
        (s.obLowCount = 0 ∧ ¬ (level = true ∧ 70 < Spec.since s now s.obLastHighTs)) ∧ c = .asleep ∧ o = s.obst ∨
        (s.obLowCount = 1 ∨ s.obLowCount = 2 ∨ 9 ≤ s.obLowCount) ∧ c = .noClass ∧ o = s.obst) ∧
      exec (.obEval .main level now) s = .next
        { s with
          settled := s.settled || decide (2000 ≤ Spec.seen s now), obst := o, obLastEvalTs := Spec.seen s now
          obRstPend := some c } ∧
      (s.nextSource = .main →
        step
          { s with
            settled := s.settled || decide (2000 ≤ Spec.seen s now), obst := o, obLastEvalTs := Spec.seen s now
            obRstPend := some c } =
          .next
            { s with
              sched := s.sched.tail, settled := s.settled || decide (2000 ≤ Spec.seen s now), obst := o
              obLastEvalTs := Spec.seen s now, obLowCount := 0, mainResp := s.mainResp ++ [.window c] })

/-- A decoded message of each protocol opcode row is delivered as one RxMsg of its class, and nothing else happens
(30_encoding.md R91 to R93, R96). Running a row by itself is the model's own way to show it (log entry 13). -/
def Obligations.ProtocolRowsDeliver : Prop :=
  ∀ (s : State) (c : Counter) (hi : BitVec 4) (lo : BitVec 32) (d : BitVec 24) (f : Fixed) (dd : Data), s.Live →
    exec (.opcStatus c hi lo d) s = .next
      { s with out := s.out ++ [Spec.rxMsg c (hi ++ 0x0#4 ++ lo) (d ++ 0x81#8)] } ∧
    Spec.classOf ((hi ++ 0x0#4 ++ lo).extractLsb' 32 4 ++ (d ++ 0x81#8).extractLsb' 0 8) = .status ∧
    exec (.opcLightEvt c hi lo d) s = .next
      { s with out := s.out ++ [Spec.rxMsg c (hi ++ 0x2#4 ++ lo) (d ++ 0x81#8)] } ∧
    Spec.classOf ((hi ++ 0x2#4 ++ lo).extractLsb' 32 4 ++ (d ++ 0x81#8).extractLsb' 0 8) = .lightEvt ∧
    exec (.opcIdle c hi lo d) s = .next
      { s with out := s.out ++ [Spec.rxMsg c (hi ++ 0x0#4 ++ lo) (d ++ 0x84#8)] } ∧
    Spec.classOf ((hi ++ 0x0#4 ++ lo).extractLsb' 32 4 ++ (d ++ 0x84#8).extractLsb' 0 8) = .idle ∧
    exec (.opcMotion c hi lo d) s = .next
      { s with out := s.out ++ [Spec.rxMsg c (hi ++ 0x2#4 ++ lo) (d ++ 0x85#8)] } ∧
    Spec.classOf ((hi ++ 0x2#4 ++ lo).extractLsb' 32 4 ++ (d ++ 0x85#8).extractLsb' 0 8) = .motion ∧
    exec (.opcOther c f dd) s = .next { s with out := s.out ++ [Spec.rxMsg c f dd] }

/-- DEC of a frame with the preamble does what the opcode row of its decoded message does, and responds ACCEPT
(40_codec.md R116, R118, 30_encoding.md R93). -/
def Obligations.DecRunsTheOpcodeRowOfItsMessage : Prop :=
  ∀ (s : State) (fr : Frame), s.Live → fr[0] = 0x55#8 → fr[1] = 0x01#8 → fr[2] = 0x00#8 →
    ∃ t, exec (decode (.message (decodedOf Config.wireCodec fr))) s = .next t ∧
      exec (.dec .main fr) s = .next { t with mainResp := t.mainResp ++ [.accept] }

/-! ## Refusals, the fault, quiescence -/

/-- A reserved op is refused with ReservedOp on every port, and only that is recorded (30_encoding.md R85,
60_exceptions.md R215). -/
def Obligations.ReservedOpsAreRefused : Prop :=
  ∀ (s : State) (p : Port), s.Live →
    exec (.reserved0 p) s = .next { s with refused := s.refused ++ [(.reservedOp 0x0, .reserved0 p)] } ∧
    exec (.reservedB p) s = .next { s with refused := s.refused ++ [(.reservedOp 0xB, .reservedB p)] } ∧
    exec (.reservedC p) s = .next { s with refused := s.refused ++ [(.reservedOp 0xC, .reservedC p)] } ∧
    exec (.reservedD p) s = .next { s with refused := s.refused ++ [(.reservedOp 0xD, .reservedD p)] } ∧
    exec (.reservedE p) s = .next { s with refused := s.refused ++ [(.reservedOp 0xE, .reservedE p)] } ∧
    exec (.reservedF p) s = .next { s with refused := s.refused ++ [(.reservedOp 0xF, .reservedF p)] }

/-- An op on a port R82 does not name for it is refused with WrongPort, whatever its other fields, and only that is
recorded (30_encoding.md R84). -/
def Obligations.WrongPortIsRefused : Prop :=
  ∀ (s : State) (i : Instr) (op : BitVec 4) (p q : Port), s.Live →
    Spec.opAndPort i = some (op, p) → Spec.namedPort op = some q → p ≠ q →
      exec i s = .next { s with refused := s.refused ++ [(.wrongPort op p, i)] }

/-- Channel 3 is refused with BadChannel on the right port, and only that is recorded; SETTLED is not touched
(30_encoding.md R86, 60_exceptions.md R211). -/
def Obligations.BadChannelIsRefused : Prop :=
  ∀ (s : State) (level : Bool) (now : Nat), s.Live →
    exec (.dcEdge .isr 3 level now) s =
      .next { s with refused := s.refused ++ [(.badChannel 3, .dcEdge .isr 3 level now)] } ∧
    exec (.dcTake .main 3) s = .next { s with refused := s.refused ++ [(.badChannel 3, .dcTake .main 3)] }

/-- The order of checks: a reserved op before its port, a port before the channel and before the counter range
(60_exceptions.md R215). -/
def Obligations.ChecksAreInOrder : Prop :=
  ∀ (s : State) (p : Port) (level : Bool) (now : Nat) (v : BitVec 32), s.Live →
    exec (.reservedB p) s = .next { s with refused := s.refused ++ [(.reservedOp 0xB, .reservedB p)] } ∧
    (p ≠ .main →
      exec (.dcTake p 3) s = .next { s with refused := s.refused ++ [(.wrongPort 0x8 p, .dcTake p 3)] } ∧
      exec (.ctrLoad p true v) s = .next { s with refused := s.refused ++ [(.wrongPort 0x2 p, .ctrLoad p true v)] }) ∧
    (p ≠ .isr →
      exec (.dcEdge p 3 level now) s =
        .next { s with refused := s.refused ++ [(.wrongPort 0x7 p, .dcEdge p 3 level now)] })

/-- After a fault or a refusal no step is taken on any port, RESET's included (60_exceptions.md R213). -/
def Obligations.QuiescentAfterFaultOrRefusal : Prop :=
  ∀ s : State, s.fault ≠ [] ∨ s.refused ≠ [] →
    (∀ i : Instr, exec i s = .fault .quiescent) ∧ step s = .fault .quiescent

/-- A request that is refused or faults writes nothing but the mark (60_exceptions.md R211, R212). -/
def Obligations.MarkedRequestsWriteNothingElse : Prop :=
  ∀ (s t : State) (i : Instr), exec i s = .next t →
    (t.refused ≠ s.refused → t = { s with refused := t.refused }) ∧
    (t.fault ≠ s.fault → t = { s with fault := t.fault })

/-- A request that ends with no mark was a well-formed one, and a well-formed request gets no refusal
(30_encoding.md R84 to R86). An OPC_OTHER row by itself is not a request. -/
def Obligations.RefusedExactlyWhenIllFormed : Prop :=
  ∀ (s : State) (i : Instr), s.Live → Spec.opAndPort i ≠ none →
    ∃ t, exec i s = .next t ∧ (t.refused = [] ↔ i.wellFormed = true)

/-! ## Steps -/

/-- The next step runs the request at the head of the queue of the port whose turn it is, on the state with that
request and that turn used up and the host's clock read; MAIN only when none of its requests is in progress (20_memory.md
R70). A host that breaks its duty on time, or starts a second transmit during one, has no move (60_exceptions.md R222,
70_reset_and_hazards.md R242, R248). The queues, the schedule, the clock and the transmitter are the model's own (log
entries 8, 16, 23). -/
def Obligations.StepRunsTheDecodedInstruction : Prop :=
  ∀ (s : State) (x : Issued) (m : Message) (q : List Issued) (ms : List Message),
    (s.nextSource = .main → Spec.NonePending s → s.mainQ = x :: q →
      Spec.Takes s (decode (.request .main x.record)) x.clock { s with sched := s.sched.tail, mainQ := q }) ∧
    (s.nextSource = .isr → s.isrQ = x :: q →
      Spec.Takes s (decode (.request .isr x.record)) x.clock { s with sched := s.sched.tail, isrQ := q }) ∧
    (s.nextSource = .rst → s.rstQ = x :: q →
      Spec.Takes s (decode (.request .rst x.record)) x.clock { s with sched := s.sched.tail, rstQ := q }) ∧
    (s.nextSource = .delivery → s.rxQ = m :: ms →
      step s = exec (decode (.message m)) { s with sched := s.sched.tail, rxQ := ms }) ∧
    (s.nextSource = .lineStart → s.Live → s.lineBusy = false →
      step s = .next { s with sched := s.sched.tail, lineBusy := true }) ∧
    (s.nextSource = .lineStart → s.Live → s.lineBusy = true → step s = .fault .hostOverlappedTransmits) ∧
    (s.nextSource = .lineEnd → s.Live → step s = .next { s with sched := s.sched.tail, lineBusy := false })

/-- A table word that is placed is what the next step runs: the instruction the decoder reads from it, on a state that
differs from the given one at most in what was pending and, for a timestamped request, in the host's clock (log entry
15). -/
def Obligations.PlacedWordRunsNext : Prop :=
  ∀ (s : State) (w : Nat), w < 16 →
    ∃ i p o h, decodeTableWord 8 w = some i ∧
      step (s.withFetchWord 8 w) = exec i { s with dcTakePend := p, obRstPend := o, hostClock := h } ∧
      (p = s.dcTakePend ∧ o = s.obRstPend ∨ p = ⟨none, none, none⟩ ∧ o = none) ∧
      (i.timestamp = none → h = s.hostClock)

/-- While a MAIN request is in progress MAIN's only step is to finish it, whatever ISR did at the split: the whole next
state. The clear of DC_TAKE is by the policy and the bit part 1 read, the response is that bit (42_debounce.md R174,
R175); part 2 of OB_EVAL zeroes the count and responds the class part 1 found (43_obstruction.md R192, R193); no waiting
request is taken (20_memory.md R70). That one mark at most is pending is `StepKeepsOneMainRequest`. The queues and the
schedule are the model's own (log entry 8). -/
def Obligations.MainFinishesBeforeItTakes : Prop :=
  ∀ s : State, s.Live → s.nextSource = .main → s.pendingCount = 1 →
    (∀ ch r, s.dcTakePend.get ch = some r →
      step s = .next
        { s with
          sched := s.sched.tail
          dcLatch := if s.config.clearPolicy = .always ∨ r = true then s.dcLatch.set ch false else s.dcLatch
          dcTakePend := s.dcTakePend.set ch none, mainResp := s.mainResp ++ [.taken r] }) ∧
    (∀ c, s.obRstPend = some c →
      step s = .next
        { s with
          sched := s.sched.tail, obLowCount := 0, obRstPend := none, mainResp := s.mainResp ++ [.window c] }) ∧
    ∃ t, step s = .next t ∧ t.pendingCount = 0

/-- A contact event that latches between the two parts of DC_TAKE is lost under ALWAYS, and under IF_SET exactly when
the read returned 1 (70_reset_and_hazards.md R244, an inference of the spec). The schedule is the model's own (log entry
8). -/
def Obligations.ContactEventLostAtTheSplit : Prop :=
  ∀ (s : State) (ch : Channel) (now : Nat), s.Live → Spec.NonePending s → s.settled = true →
    500 < Spec.since s now (s.dcFallTs.get ch) → Spec.since s now (s.dcFallTs.get ch) < 10000 →
      ∃ t1 t2 t3,
        exec (.dcTake .main ch.code) s = .next t1 ∧
        exec (.dcEdge .isr ch.code true now) t1 = .next t2 ∧ t2.isrResp = s.isrResp ++ [.latch] ∧
        t2.dcLatch.get ch = true ∧
        step { t2 with sched := [.main] } = .next t3 ∧ t3.mainResp = s.mainResp ++ [.taken (s.dcLatch.get ch)] ∧
        (t3.dcLatch.get ch = false ↔ s.config.clearPolicy = .always ∨ s.dcLatch.get ch = true)

/-- A falling edge between the two parts of a gated OB_EVAL is counted in neither window, and the response is the class
part 1 found (43_obstruction.md R193). The schedule is the model's own (log entry 8). -/
def Obligations.PulseLostAtTheSplit : Prop :=
  ∀ (s : State) (level : Bool) (now later : Nat), s.Live → Spec.NonePending s →
    50 < Spec.since s now s.obLastEvalTs →
      ∃ t1 t2 t3 c,
        exec (.obEval .main level now) s = .next t1 ∧ t1.obRstPend = some c ∧
        exec (.obEdge .isr false later) t1 = .next t2 ∧
        t2.obLowCount = (s.obLowCount + 1) % 2 ^ s.config.lowCountW ∧
        step { t2 with sched := [.main] } = .next t3 ∧ t3.obLowCount = 0 ∧
        t3.mainResp = s.mainResp ++ [.window c] ∧ t3.obst = t1.obst

/-! ## Frames of whole units and of whole agents -/

/-- The codec requests, on any port, leave every register of the other units (41_frame_assembler.md R156). -/
def Obligations.CodecRequestsLeaveOtherUnits : Prop :=
  ∀ (s t : State) (i : Instr) (p : Port),
    (∃ b v, i = .ctrLoad p b v) ∨ i = .ctrRead p ∨ (∃ f d h, i = .enc p f d h) ∨ (∃ fr, i = .dec p fr) →
    exec i s = .next t →
      t.faMode = s.faMode ∧ t.faShift = s.faShift ∧ t.faCount = s.faCount ∧ t.faBuf = s.faBuf ∧
      t.dcFallTs = s.dcFallTs ∧ t.dcLatch = s.dcLatch ∧ t.settled = s.settled ∧ t.obLowCount = s.obLowCount ∧
      t.obLastHighTs = s.obLastHighTs ∧ t.obLastEvalTs = s.obLastEvalTs ∧ t.obst = s.obst ∧
      t.dcTakePend = s.dcTakePend ∧ t.obRstPend = s.obRstPend ∧ t.isrResp = s.isrResp ∧
      ((∀ f d, i ≠ .enc p f d false) → (∀ b v, i ≠ .ctrLoad p b v) → t.ctr = s.ctr)

/-- FA_BYTE, on any port, leaves every register outside the frame assembler (41_frame_assembler.md R156). -/
def Obligations.FaByteLeavesOtherUnits : Prop :=
  ∀ (s t : State) (p : Port) (b : Byte), exec (.faByte p b) s = .next t →
    t.ctr = s.ctr ∧ t.dcFallTs = s.dcFallTs ∧ t.dcLatch = s.dcLatch ∧ t.settled = s.settled ∧
    t.obLowCount = s.obLowCount ∧ t.obLastHighTs = s.obLastHighTs ∧ t.obLastEvalTs = s.obLastEvalTs ∧
    t.obst = s.obst ∧ t.dcTakePend = s.dcTakePend ∧ t.obRstPend = s.obRstPend ∧ t.isrResp = s.isrResp

/-- DC_EDGE, DC_TAKE, OB_EDGE and OB_EVAL, on any port, leave the codec, the frame assembler and OUT; the contact
requests leave the obstruction registers and the obstruction requests the contact registers. The same of part 2 of
DC_TAKE and of OB_EVAL, which is MAIN's next step (10_state.md R36; the schedule is the model's own, log entry 8). -/
def Obligations.SensorRequestsLeaveOtherUnits : Prop :=
  ∀ (s t : State) (i : Instr) (p : Port),
    ((∃ ch l n, i = .dcEdge p ch l n) ∨ (∃ ch, i = .dcTake p ch) → exec i s = .next t → Spec.ContactFrame s t) ∧
    ((∃ l n, i = .obEdge p l n) ∨ (∃ l n, i = .obEval p l n) → exec i s = .next t → Spec.ObstructionFrame s t) ∧
    (∀ ch r, s.nextSource = .main → s.pendingCount = 1 → s.dcTakePend.get ch = some r → step s = .next t →
      Spec.ContactFrame s t) ∧
    (∀ c, s.nextSource = .main → s.pendingCount = 1 → s.obRstPend = some c → step s = .next t →
      Spec.ObstructionFrame s t)

/-- No request that comes on ISR writes what 10_state.md R36 gives to MAIN alone, and none that comes on MAIN writes
what it gives to ISR alone; nor does any step of ISR or of MAIN, MAIN's second parts among them. Whose step it is stands
in the schedule, the model's own (log entry 8). -/
def Obligations.AgentsWriteOnlyTheirOwn : Prop :=
  ∀ s t : State,
    (∀ i op p, Spec.opAndPort i = some (op, p) → exec i s = .next t →
      (p = .isr → Spec.IsrFrame s t) ∧ (p = .main → Spec.MainFrame s t)) ∧
    (step s = .next t →
      (s.nextSource = .isr → Spec.IsrFrame s t) ∧ (s.nextSource = .main → Spec.MainFrame s t))

/-- DC_EDGE on one channel neither reads nor writes another channel's registers (42_debounce.md R170). -/
def Obligations.ChannelsAreIndependent : Prop :=
  ∀ (s s' t t' : State) (ch : Channel) (level : Bool) (now : Nat),
    s.dcFallTs.get ch = s'.dcFallTs.get ch → s.dcLatch.get ch = s'.dcLatch.get ch → s.settled = s'.settled →
    s.config = s'.config →
    exec (.dcEdge .isr ch.code level now) s = .next t → exec (.dcEdge .isr ch.code level now) s' = .next t' →
      t.dcFallTs.get ch = t'.dcFallTs.get ch ∧ t.dcLatch.get ch = t'.dcLatch.get ch ∧ t.settled = t'.settled ∧
      t.isrResp.drop s.isrResp.length = t'.isrResp.drop s'.isrResp.length ∧
      ∀ c, c ≠ ch → t.dcFallTs.get c = s.dcFallTs.get c ∧ t.dcLatch.get c = s.dcLatch.get c

/-- Every well-formed request on MAIN or ISR that completes gives exactly one response, on its own port, at once or by
its pending second part; RESET and a fault give none (30_encoding.md R87). -/
def Obligations.OneResponsePerRequest : Prop :=
  ∀ (s t : State) (i : Instr) (op : BitVec 4) (p : Port), Spec.opAndPort i = some (op, p) → i.wellFormed = true →
    Spec.NonePending s → exec i s = .next t →
      (p = .isr → (∃ r, t.isrResp = s.isrResp ++ [r]) ∧ t.mainResp = s.mainResp ∧ t.pendingCount = 0) ∧
      (p = .main → t.isrResp = s.isrResp ∧
        ((∃ r, t.mainResp = s.mainResp ++ [r]) ∧ t.pendingCount = 0 ∧ t.fault = s.fault ∨
          t.mainResp = s.mainResp ∧ t.pendingCount = 1 ∧ t.fault = s.fault ∨
          t.mainResp = s.mainResp ∧ t.pendingCount = 0 ∧ t.fault ≠ s.fault)) ∧
      (p = .rst → t.mainResp = s.mainResp ∧ t.isrResp = s.isrResp)

/-- OBST has one writer besides RESET: an OB_EVAL on MAIN whose gate passes (43_obstruction.md R194, an inference of the
spec). The queues are the model's own (log entry 8). -/
def Obligations.ObstHasOneWriter : Prop :=
  ∀ s t : State, step s = .next t → t.obst ≠ s.obst →
    (∃ x q level now, s.nextSource = .main ∧ s.mainQ = x :: q ∧
      decode (.request .main x.record) = .obEval .main level now ∧ 50 < Spec.since s now s.obLastEvalTs ∧
      t.obst ≠ .unknown) ∨
    (∃ x q, s.nextSource = .rst ∧ s.rstQ = x :: q ∧ decode (.request .rst x.record) = .reset .rst ∧
      t.obst = .unknown)

/-- Only RESET clears SETTLED (42_debounce.md R177). The queues are the model's own (log entry 8). -/
def Obligations.OnlyResetClearsSettled : Prop :=
  ∀ s t : State, step s = .next t → s.settled = true → t.settled = false →
    ∃ x q, s.nextSource = .rst ∧ s.rstQ = x :: q ∧ decode (.request .rst x.record) = .reset .rst

/-- A step changes CTR only by an ENC with hold = 0, a CTR_LOAD or a RESET (10_state.md R21). The queues are the
model's own (log entry 8). -/
def Obligations.CtrHasThreeWriters : Prop :=
  ∀ s t : State, step s = .next t → t.ctr ≠ s.ctr →
    (∃ x q, s.nextSource = .main ∧ s.mainQ = x :: q ∧
      ((∃ f d, decode (.request .main x.record) = .enc .main f d false ∧ t.ctr = s.ctr + 1) ∨
        ∃ b v, decode (.request .main x.record) = .ctrLoad .main b v)) ∨
    (∃ x q, s.nextSource = .rst ∧ s.rstQ = x :: q ∧ decode (.request .rst x.record) = .reset .rst ∧ t.ctr = 0)

/-- OUT, FAULT, REFUSED and the responses only ever grow, OUT by at most one event a step; the configuration and the
empty delivery point stay as they are (10_state.md R34, R35). The responses, the configuration field and the delivery
point are the model's own (log entries 7, 1, 2, 13). -/
def Obligations.LogsOnlyGrow : Prop :=
  ∀ s t : State, step s = .next t →
    (t.out = s.out ∨ ∃ e, t.out = s.out ++ [e]) ∧ s.fault <+: t.fault ∧ s.refused <+: t.refused ∧
    s.mainResp <+: t.mainResp ∧ s.isrResp <+: t.isrResp ∧ t.config = s.config ∧
    (s.rxQ = [] → t.rxQ = [])

/-! ## Invariants -/

/-- Every step keeps the frame-assembler invariant (10_state.md R40, an inference of the spec), and every register of a
parameter's width within it (00_scope.md R9, R15), for every TIME_W and LOWCOUNT_W. -/
def Obligations.StepKeepsFaInvariant : Prop :=
  ∀ s t : State, step s = .next t → (s.FaInv → t.FaInv) ∧ (s.WidthInv → t.WidthInv)

/-- Every step keeps FA_SHIFT at the preamble exactly while CAPTURING (read from 41_frame_assembler.md R150, R152 by
inference). -/
def Obligations.StepKeepsShiftInvariant : Prop :=
  ∀ s t : State, s.ShiftInv → step s = .next t → t.ShiftInv

/-- Every step keeps MAIN at one request at a time (20_memory.md R70). -/
def Obligations.StepKeepsOneMainRequest : Prop :=
  ∀ s t : State, s.PendInv → step s = .next t → t.PendInv

/-- Every step keeps the startup guard's promise: no falling edge recorded, no latch set, before it ends
(42_debounce.md R172). -/
def Obligations.StepKeepsGuardInvariant : Prop :=
  ∀ s t : State, s.GuardInv → step s = .next t → t.GuardInv

/-- Every step keeps the marks to at most one, each of them deserved (60_exceptions.md R211 to R213). -/
def Obligations.StepKeepsMarkInvariant : Prop :=
  ∀ s t : State, s.MarkInv → step s = .next t → t.MarkInv

/-- The invariants hold right after reset, RESET at reset changes nothing, and no mark, event or message is there
(70_reset_and_hazards.md R240, R241). The delivery point is the model's own (log entry 13). -/
def Obligations.InvariantsHoldAtReset : Prop :=
  State.reset.FaInv ∧ State.reset.ShiftInv ∧ State.reset.PendInv ∧ State.reset.GuardInv ∧ State.reset.MarkInv ∧
  State.reset.WidthInv ∧ State.reset.Live ∧ State.reset.out = [] ∧ State.reset.rxQ = [] ∧
  exec (.reset .rst) State.reset = .next State.reset

/-! ## Laws over runs -/

/-- The counter law (40_codec.md R121, an inference of the spec): after any sequence of ENC requests CTR has advanced by
the number of those with hold = 0, modulo 2^28, and each has emitted one frame. -/
def Obligations.CounterLaw : Prop :=
  ∀ (l : List (Fixed × Data × Bool)) (s : State), s.Live →
    ∃ t, execAll (l.map fun x => Instr.enc .main x.1 x.2.1 x.2.2) s = .next t ∧
      t.ctr.toNat = (s.ctr.toNat + (l.filter fun x => !x.2.2).length) % 2 ^ 28 ∧
      t.out.length = s.out.length + l.length ∧ t.Live

/-- Under CODEC_RT the frame ENC emits decodes to the counter, the fixed field with the device id OR-ed in and the data
it was made of, for every codec (40_codec.md R111, R114, R116). -/
def Obligations.EncThenDecRoundTrips : Prop :=
  ∀ wc : Config.WireCodec, Config.CodecRT wc → ∀ (s : State) (f : Fixed) (d : Data) (hold : Bool),
    ∃ fr, (encEffect wc f d hold s).out = s.out ++ [.txFrame fr] ∧
      (decEffect wc fr (encEffect wc f d hold s)).out =
        s.out ++ [.txFrame fr, Spec.rxMsg s.ctr (f ||| 0x539#40) d] ∧
      (decEffect wc fr (encEffect wc f d hold s)).mainResp = s.mainResp ++ [.encoded fr s.ctr, .accept]

/-- A door toggle: an ENC with hold = 1 and then one with hold = 0 use one counter value and advance CTR once; under
CODEC_RT both frames decode to it (40_codec.md R121), for every codec. -/
def Obligations.DoorTogglePairSharesItsCounter : Prop :=
  ∀ wc : Config.WireCodec, Config.CodecRT wc → ∀ (s : State) (f1 f2 : Fixed) (d1 d2 : Data),
    ∃ fr1 fr2,
      (encEffect wc f2 d2 false (encEffect wc f1 d1 true s)).out = s.out ++ [.txFrame fr1, .txFrame fr2] ∧
      (encEffect wc f2 d2 false (encEffect wc f1 d1 true s)).ctr = s.ctr + 1 ∧
      (wc.dec (payload fr1)).1 = s.ctr ∧ (wc.dec (payload fr2)).1 = s.ctr

/-- Under CODEC_CTRDEP two frames that differ only in the counter agree outside CTR_DEP_BYTES, for every codec and every
such set (40_codec.md R113). R113 lists frame bytes, 3 to 18; the model lists payload byte i for frame byte 3 + i, and
that re-indexing, which this statement undoes, is the model's choice (log entry 4). -/
def Obligations.FramesDifferOnlyInCounterBytes : Prop :=
  ∀ (wc : Config.WireCodec) (dep : List (Fin 16)), Config.CodecCtrDep wc dep →
    ∀ (c c' : Counter) (f : Fixed) (d : Data) (i : Fin 19), (∀ k ∈ dep, i.val ≠ 3 + k.val) →
      (frameOf wc c f d)[i] = (frameOf wc c' f d)[i]

/-- From SCANNING, the preamble and then any 16 bytes emit exactly one event, the delivery of those 19 bytes, and give
SCAN, SCAN, SYNC, fifteen STORED and FRAME (41_frame_assembler.md R151, R152). -/
def Obligations.NineteenBytesMakeOneFrame : Prop :=
  ∀ (s : State) (bs : List Byte) (h : ([0x55, 0x01, 0x00] ++ bs).toArray.size = 19), s.Live → s.faMode = .scanning →
    ∃ t, feed ([0x55, 0x01, 0x00] ++ bs) s = .next t ∧
      t.out = s.out ++ [Spec.delivered ⟨([0x55, 0x01, 0x00] ++ bs).toArray, h⟩] ∧
      t.faMode = .scanning ∧ t.faCount = 0 ∧
      t.mainResp = s.mainResp ++ [.scan, .scan, .sync] ++ List.replicate 15 .stored ++ [.frameDone]

/-- Whether FA_SHIFT is cleared at completion cannot be observed: from a SCANNING state with either value, every byte
sequence gives the same responses and the same events (41_frame_assembler.md R154). -/
def Obligations.ShiftClearIsUnobservable : Prop :=
  ∀ (bs : List Byte) (s : State), s.Live → s.faMode = .scanning →
    ∃ t t', feed bs { s with faShift := 0 } = .next t ∧ feed bs { s with faShift := 0x550100 } = .next t' ∧
      t.out = t'.out ∧ t.mainResp = t'.mainResp ∧ t.faMode = t'.faMode ∧ t.faCount = t'.faCount ∧ t.faBuf = t'.faBuf

/-- From an empty shift register the assembler answers SCAN to every byte of a sequence exactly when the sequence holds
no three consecutive bytes 55 01 00 (41_frame_assembler.md R155). -/
def Obligations.ScanningUntilThePreamble : Prop :=
  ∀ (bs : List Byte) (s : State), s.Live → s.faMode = .scanning → s.faShift = 0 →
    ((∃ t, feed bs s = .next t ∧ t.mainResp = s.mainResp ++ List.replicate bs.length .scan) ↔
      ¬ [0x55#8, 0x01#8, 0x00#8] <:+: bs)

/-- The debounce law (42_debounce.md R178, an inference of the spec): with SETTLED = 1 and the latch clear, a falling edge
at t0 and a rising edge at t0 + e, less than 2^TIME_W ms apart (60_exceptions.md R222), latch exactly when
500 < e < 10000. For every TIME_W. -/
def Obligations.DebounceLaw : Prop :=
  ∀ (s : State) (ch : Channel) (t0 e : Nat), s.Live → s.settled = true → s.dcLatch.get ch = false →
    e < 2 ^ s.config.timeW →
    ∃ u v, exec (.dcEdge .isr ch.code false t0) s = .next u ∧ exec (.dcEdge .isr ch.code true (t0 + e)) u = .next v ∧
      (v.dcLatch.get ch = true ↔ 500 < e ∧ e < 10000)

/-- Edges that all come before t = 2000 ms set no latch, whatever their channels, levels and spacing: every response is
GUARDED and no register changes (42_debounce.md R172, R178). -/
def Obligations.EdgesInTheGuardAreIgnored : Prop :=
  ∀ (l : List (Channel × Bool × Nat)) (s : State), s.Live → s.settled = false →
    (∀ x ∈ l, x.2.2 < 2000) →
      execAll (l.map fun x => Instr.dcEdge .isr x.1.code x.2.1 x.2.2) s =
        .next { s with isrResp := s.isrResp ++ List.replicate l.length .guarded }

/-- The obstruction laws (43_obstruction.md R197, an inference of the spec), of a gated OB_EVAL: 5 falling edges give
CLEAR; none, with the line high and the last high sample more than 70 ms ago, give OBSTRUCTED; none, with it exactly 50 ms
ago, leave OBST. For every TIME_W. -/
def Obligations.ObstructionLaws : Prop :=
  ∀ (s t : State) (level : Bool) (now : Nat), 50 < Spec.since s now s.obLastEvalTs →
    exec (.obEval .main level now) s = .next t →
      (s.obLowCount = 5 → t.obst = .clear) ∧
      (s.obLowCount = 0 → level = true → 70 < Spec.since s now s.obLastHighTs → t.obst = .obstructed) ∧
      (s.obLowCount = 0 → level = true → Spec.since s now s.obLastHighTs = 50 → t.obst = s.obst)

/-- OBSTRUCTED is never set while pulses are counted, nor while the line is low: the step that sets it takes an OB_EVAL on
MAIN with the line high (70_reset_and_hazards.md R245, an inference of the spec). Of a time the TIME_W low bits
arrive (log entry 1). The queues and the schedule are the model's own (log entry 8). -/
def Obligations.ObstructedNeedsNoPulses : Prop :=
  ∀ s t : State, step s = .next t → s.obst ≠ .obstructed → t.obst = .obstructed →
    ∃ x q now, s.nextSource = .main ∧ s.mainQ = x :: q ∧ decode (.request .main x.record) = .obEval .main true now ∧
      s.obLowCount = 0 ∧ 70 < Spec.since s now s.obLastHighTs ∧ 50 < Spec.since s now s.obLastEvalTs ∧
      t.obLastEvalTs = Spec.seen s now
end

