-- ==== Sys2Proof/Laws/State.lean ====
section
/-! SUPPORT. For each operation of Machine/Ops.lean that writes State, what it leaves in each field: the simp set that
takes the place of unfolding a record update. -/

namespace Sys2Proof.Machine

/-! ### setCtr -/

@[simp] theorem State.setCtr_ctr (c : Counter) (s : State) : (s.setCtr c).ctr = c := rfl
@[simp] theorem State.setCtr_faMode (c : Counter) (s : State) : (s.setCtr c).faMode = s.faMode := rfl
@[simp] theorem State.setCtr_faShift (c : Counter) (s : State) : (s.setCtr c).faShift = s.faShift := rfl
@[simp] theorem State.setCtr_faCount (c : Counter) (s : State) : (s.setCtr c).faCount = s.faCount := rfl
@[simp] theorem State.setCtr_faBuf (c : Counter) (s : State) : (s.setCtr c).faBuf = s.faBuf := rfl
@[simp] theorem State.setCtr_dcFallTs (c : Counter) (s : State) : (s.setCtr c).dcFallTs = s.dcFallTs := rfl
@[simp] theorem State.setCtr_dcLatch (c : Counter) (s : State) : (s.setCtr c).dcLatch = s.dcLatch := rfl
@[simp] theorem State.setCtr_settled (c : Counter) (s : State) : (s.setCtr c).settled = s.settled := rfl
@[simp] theorem State.setCtr_obLowCount (c : Counter) (s : State) : (s.setCtr c).obLowCount = s.obLowCount := rfl
@[simp] theorem State.setCtr_obLastHighTs (c : Counter) (s : State) : (s.setCtr c).obLastHighTs = s.obLastHighTs := rfl
@[simp] theorem State.setCtr_obLastEvalTs (c : Counter) (s : State) : (s.setCtr c).obLastEvalTs = s.obLastEvalTs := rfl
@[simp] theorem State.setCtr_obst (c : Counter) (s : State) : (s.setCtr c).obst = s.obst := rfl
@[simp] theorem State.setCtr_dcTakePend (c : Counter) (s : State) : (s.setCtr c).dcTakePend = s.dcTakePend := rfl
@[simp] theorem State.setCtr_obRstPend (c : Counter) (s : State) : (s.setCtr c).obRstPend = s.obRstPend := rfl
@[simp] theorem State.setCtr_fault (c : Counter) (s : State) : (s.setCtr c).fault = s.fault := rfl
@[simp] theorem State.setCtr_refused (c : Counter) (s : State) : (s.setCtr c).refused = s.refused := rfl
@[simp] theorem State.setCtr_out (c : Counter) (s : State) : (s.setCtr c).out = s.out := rfl
@[simp] theorem State.setCtr_mainResp (c : Counter) (s : State) : (s.setCtr c).mainResp = s.mainResp := rfl
@[simp] theorem State.setCtr_isrResp (c : Counter) (s : State) : (s.setCtr c).isrResp = s.isrResp := rfl
@[simp] theorem State.setCtr_mainQ (c : Counter) (s : State) : (s.setCtr c).mainQ = s.mainQ := rfl
@[simp] theorem State.setCtr_isrQ (c : Counter) (s : State) : (s.setCtr c).isrQ = s.isrQ := rfl
@[simp] theorem State.setCtr_rstQ (c : Counter) (s : State) : (s.setCtr c).rstQ = s.rstQ := rfl
@[simp] theorem State.setCtr_rxQ (c : Counter) (s : State) : (s.setCtr c).rxQ = s.rxQ := rfl
@[simp] theorem State.setCtr_sched (c : Counter) (s : State) : (s.setCtr c).sched = s.sched := rfl
@[simp] theorem State.setCtr_hostClock (c : Counter) (s : State) : (s.setCtr c).hostClock = s.hostClock := rfl
@[simp] theorem State.setCtr_lineBusy (c : Counter) (s : State) : (s.setCtr c).lineBusy = s.lineBusy := rfl
@[simp] theorem State.setCtr_config (c : Counter) (s : State) : (s.setCtr c).config = s.config := rfl

/-! ### setFa -/

@[simp] theorem State.setFa_ctr (m : FaMode) (sh : BitVec 24) (n : BitVec 5) (b : Frame) (s : State) : (s.setFa m sh n b).ctr = s.ctr := rfl
@[simp] theorem State.setFa_faMode (m : FaMode) (sh : BitVec 24) (n : BitVec 5) (b : Frame) (s : State) : (s.setFa m sh n b).faMode = m := rfl
@[simp] theorem State.setFa_faShift (m : FaMode) (sh : BitVec 24) (n : BitVec 5) (b : Frame) (s : State) : (s.setFa m sh n b).faShift = sh := rfl
@[simp] theorem State.setFa_faCount (m : FaMode) (sh : BitVec 24) (n : BitVec 5) (b : Frame) (s : State) : (s.setFa m sh n b).faCount = n := rfl
@[simp] theorem State.setFa_faBuf (m : FaMode) (sh : BitVec 24) (n : BitVec 5) (b : Frame) (s : State) : (s.setFa m sh n b).faBuf = b := rfl
@[simp] theorem State.setFa_dcFallTs (m : FaMode) (sh : BitVec 24) (n : BitVec 5) (b : Frame) (s : State) : (s.setFa m sh n b).dcFallTs = s.dcFallTs := rfl
@[simp] theorem State.setFa_dcLatch (m : FaMode) (sh : BitVec 24) (n : BitVec 5) (b : Frame) (s : State) : (s.setFa m sh n b).dcLatch = s.dcLatch := rfl
@[simp] theorem State.setFa_settled (m : FaMode) (sh : BitVec 24) (n : BitVec 5) (b : Frame) (s : State) : (s.setFa m sh n b).settled = s.settled := rfl
@[simp] theorem State.setFa_obLowCount (m : FaMode) (sh : BitVec 24) (n : BitVec 5) (b : Frame) (s : State) : (s.setFa m sh n b).obLowCount = s.obLowCount := rfl
@[simp] theorem State.setFa_obLastHighTs (m : FaMode) (sh : BitVec 24) (n : BitVec 5) (b : Frame) (s : State) : (s.setFa m sh n b).obLastHighTs = s.obLastHighTs := rfl
@[simp] theorem State.setFa_obLastEvalTs (m : FaMode) (sh : BitVec 24) (n : BitVec 5) (b : Frame) (s : State) : (s.setFa m sh n b).obLastEvalTs = s.obLastEvalTs := rfl
@[simp] theorem State.setFa_obst (m : FaMode) (sh : BitVec 24) (n : BitVec 5) (b : Frame) (s : State) : (s.setFa m sh n b).obst = s.obst := rfl
@[simp] theorem State.setFa_dcTakePend (m : FaMode) (sh : BitVec 24) (n : BitVec 5) (b : Frame) (s : State) : (s.setFa m sh n b).dcTakePend = s.dcTakePend := rfl
@[simp] theorem State.setFa_obRstPend (m : FaMode) (sh : BitVec 24) (n : BitVec 5) (b : Frame) (s : State) : (s.setFa m sh n b).obRstPend = s.obRstPend := rfl
@[simp] theorem State.setFa_fault (m : FaMode) (sh : BitVec 24) (n : BitVec 5) (b : Frame) (s : State) : (s.setFa m sh n b).fault = s.fault := rfl
@[simp] theorem State.setFa_refused (m : FaMode) (sh : BitVec 24) (n : BitVec 5) (b : Frame) (s : State) : (s.setFa m sh n b).refused = s.refused := rfl
@[simp] theorem State.setFa_out (m : FaMode) (sh : BitVec 24) (n : BitVec 5) (b : Frame) (s : State) : (s.setFa m sh n b).out = s.out := rfl
@[simp] theorem State.setFa_mainResp (m : FaMode) (sh : BitVec 24) (n : BitVec 5) (b : Frame) (s : State) : (s.setFa m sh n b).mainResp = s.mainResp := rfl
@[simp] theorem State.setFa_isrResp (m : FaMode) (sh : BitVec 24) (n : BitVec 5) (b : Frame) (s : State) : (s.setFa m sh n b).isrResp = s.isrResp := rfl
@[simp] theorem State.setFa_mainQ (m : FaMode) (sh : BitVec 24) (n : BitVec 5) (b : Frame) (s : State) : (s.setFa m sh n b).mainQ = s.mainQ := rfl
@[simp] theorem State.setFa_isrQ (m : FaMode) (sh : BitVec 24) (n : BitVec 5) (b : Frame) (s : State) : (s.setFa m sh n b).isrQ = s.isrQ := rfl
@[simp] theorem State.setFa_rstQ (m : FaMode) (sh : BitVec 24) (n : BitVec 5) (b : Frame) (s : State) : (s.setFa m sh n b).rstQ = s.rstQ := rfl
@[simp] theorem State.setFa_rxQ (m : FaMode) (sh : BitVec 24) (n : BitVec 5) (b : Frame) (s : State) : (s.setFa m sh n b).rxQ = s.rxQ := rfl
@[simp] theorem State.setFa_sched (m : FaMode) (sh : BitVec 24) (n : BitVec 5) (b : Frame) (s : State) : (s.setFa m sh n b).sched = s.sched := rfl
@[simp] theorem State.setFa_hostClock (m : FaMode) (sh : BitVec 24) (n : BitVec 5) (b : Frame) (s : State) : (s.setFa m sh n b).hostClock = s.hostClock := rfl
@[simp] theorem State.setFa_lineBusy (m : FaMode) (sh : BitVec 24) (n : BitVec 5) (b : Frame) (s : State) : (s.setFa m sh n b).lineBusy = s.lineBusy := rfl
@[simp] theorem State.setFa_config (m : FaMode) (sh : BitVec 24) (n : BitVec 5) (b : Frame) (s : State) : (s.setFa m sh n b).config = s.config := rfl

/-! ### setFallTs -/

@[simp] theorem State.setFallTs_ctr (ch : Channel) (x : Nat) (s : State) : (s.setFallTs ch x).ctr = s.ctr := rfl
@[simp] theorem State.setFallTs_faMode (ch : Channel) (x : Nat) (s : State) : (s.setFallTs ch x).faMode = s.faMode := rfl
@[simp] theorem State.setFallTs_faShift (ch : Channel) (x : Nat) (s : State) : (s.setFallTs ch x).faShift = s.faShift := rfl
@[simp] theorem State.setFallTs_faCount (ch : Channel) (x : Nat) (s : State) : (s.setFallTs ch x).faCount = s.faCount := rfl
@[simp] theorem State.setFallTs_faBuf (ch : Channel) (x : Nat) (s : State) : (s.setFallTs ch x).faBuf = s.faBuf := rfl
@[simp] theorem State.setFallTs_dcFallTs (ch : Channel) (x : Nat) (s : State) : (s.setFallTs ch x).dcFallTs = s.dcFallTs.set ch x := rfl
@[simp] theorem State.setFallTs_dcLatch (ch : Channel) (x : Nat) (s : State) : (s.setFallTs ch x).dcLatch = s.dcLatch := rfl
@[simp] theorem State.setFallTs_settled (ch : Channel) (x : Nat) (s : State) : (s.setFallTs ch x).settled = s.settled := rfl
@[simp] theorem State.setFallTs_obLowCount (ch : Channel) (x : Nat) (s : State) : (s.setFallTs ch x).obLowCount = s.obLowCount := rfl
@[simp] theorem State.setFallTs_obLastHighTs (ch : Channel) (x : Nat) (s : State) : (s.setFallTs ch x).obLastHighTs = s.obLastHighTs := rfl
@[simp] theorem State.setFallTs_obLastEvalTs (ch : Channel) (x : Nat) (s : State) : (s.setFallTs ch x).obLastEvalTs = s.obLastEvalTs := rfl
@[simp] theorem State.setFallTs_obst (ch : Channel) (x : Nat) (s : State) : (s.setFallTs ch x).obst = s.obst := rfl
@[simp] theorem State.setFallTs_dcTakePend (ch : Channel) (x : Nat) (s : State) : (s.setFallTs ch x).dcTakePend = s.dcTakePend := rfl
@[simp] theorem State.setFallTs_obRstPend (ch : Channel) (x : Nat) (s : State) : (s.setFallTs ch x).obRstPend = s.obRstPend := rfl
@[simp] theorem State.setFallTs_fault (ch : Channel) (x : Nat) (s : State) : (s.setFallTs ch x).fault = s.fault := rfl
@[simp] theorem State.setFallTs_refused (ch : Channel) (x : Nat) (s : State) : (s.setFallTs ch x).refused = s.refused := rfl
@[simp] theorem State.setFallTs_out (ch : Channel) (x : Nat) (s : State) : (s.setFallTs ch x).out = s.out := rfl
@[simp] theorem State.setFallTs_mainResp (ch : Channel) (x : Nat) (s : State) : (s.setFallTs ch x).mainResp = s.mainResp := rfl
@[simp] theorem State.setFallTs_isrResp (ch : Channel) (x : Nat) (s : State) : (s.setFallTs ch x).isrResp = s.isrResp := rfl
@[simp] theorem State.setFallTs_mainQ (ch : Channel) (x : Nat) (s : State) : (s.setFallTs ch x).mainQ = s.mainQ := rfl
@[simp] theorem State.setFallTs_isrQ (ch : Channel) (x : Nat) (s : State) : (s.setFallTs ch x).isrQ = s.isrQ := rfl
@[simp] theorem State.setFallTs_rstQ (ch : Channel) (x : Nat) (s : State) : (s.setFallTs ch x).rstQ = s.rstQ := rfl
@[simp] theorem State.setFallTs_rxQ (ch : Channel) (x : Nat) (s : State) : (s.setFallTs ch x).rxQ = s.rxQ := rfl
@[simp] theorem State.setFallTs_sched (ch : Channel) (x : Nat) (s : State) : (s.setFallTs ch x).sched = s.sched := rfl
@[simp] theorem State.setFallTs_hostClock (ch : Channel) (x : Nat) (s : State) : (s.setFallTs ch x).hostClock = s.hostClock := rfl
@[simp] theorem State.setFallTs_lineBusy (ch : Channel) (x : Nat) (s : State) : (s.setFallTs ch x).lineBusy = s.lineBusy := rfl
@[simp] theorem State.setFallTs_config (ch : Channel) (x : Nat) (s : State) : (s.setFallTs ch x).config = s.config := rfl

/-! ### setLatch -/

@[simp] theorem State.setLatch_ctr (ch : Channel) (b : Bool) (s : State) : (s.setLatch ch b).ctr = s.ctr := rfl
@[simp] theorem State.setLatch_faMode (ch : Channel) (b : Bool) (s : State) : (s.setLatch ch b).faMode = s.faMode := rfl
@[simp] theorem State.setLatch_faShift (ch : Channel) (b : Bool) (s : State) : (s.setLatch ch b).faShift = s.faShift := rfl
@[simp] theorem State.setLatch_faCount (ch : Channel) (b : Bool) (s : State) : (s.setLatch ch b).faCount = s.faCount := rfl
@[simp] theorem State.setLatch_faBuf (ch : Channel) (b : Bool) (s : State) : (s.setLatch ch b).faBuf = s.faBuf := rfl
@[simp] theorem State.setLatch_dcFallTs (ch : Channel) (b : Bool) (s : State) : (s.setLatch ch b).dcFallTs = s.dcFallTs := rfl
@[simp] theorem State.setLatch_dcLatch (ch : Channel) (b : Bool) (s : State) : (s.setLatch ch b).dcLatch = s.dcLatch.set ch b := rfl
@[simp] theorem State.setLatch_settled (ch : Channel) (b : Bool) (s : State) : (s.setLatch ch b).settled = s.settled := rfl
@[simp] theorem State.setLatch_obLowCount (ch : Channel) (b : Bool) (s : State) : (s.setLatch ch b).obLowCount = s.obLowCount := rfl
@[simp] theorem State.setLatch_obLastHighTs (ch : Channel) (b : Bool) (s : State) : (s.setLatch ch b).obLastHighTs = s.obLastHighTs := rfl
@[simp] theorem State.setLatch_obLastEvalTs (ch : Channel) (b : Bool) (s : State) : (s.setLatch ch b).obLastEvalTs = s.obLastEvalTs := rfl
@[simp] theorem State.setLatch_obst (ch : Channel) (b : Bool) (s : State) : (s.setLatch ch b).obst = s.obst := rfl
@[simp] theorem State.setLatch_dcTakePend (ch : Channel) (b : Bool) (s : State) : (s.setLatch ch b).dcTakePend = s.dcTakePend := rfl
@[simp] theorem State.setLatch_obRstPend (ch : Channel) (b : Bool) (s : State) : (s.setLatch ch b).obRstPend = s.obRstPend := rfl
@[simp] theorem State.setLatch_fault (ch : Channel) (b : Bool) (s : State) : (s.setLatch ch b).fault = s.fault := rfl
@[simp] theorem State.setLatch_refused (ch : Channel) (b : Bool) (s : State) : (s.setLatch ch b).refused = s.refused := rfl
@[simp] theorem State.setLatch_out (ch : Channel) (b : Bool) (s : State) : (s.setLatch ch b).out = s.out := rfl
@[simp] theorem State.setLatch_mainResp (ch : Channel) (b : Bool) (s : State) : (s.setLatch ch b).mainResp = s.mainResp := rfl
@[simp] theorem State.setLatch_isrResp (ch : Channel) (b : Bool) (s : State) : (s.setLatch ch b).isrResp = s.isrResp := rfl
@[simp] theorem State.setLatch_mainQ (ch : Channel) (b : Bool) (s : State) : (s.setLatch ch b).mainQ = s.mainQ := rfl
@[simp] theorem State.setLatch_isrQ (ch : Channel) (b : Bool) (s : State) : (s.setLatch ch b).isrQ = s.isrQ := rfl
@[simp] theorem State.setLatch_rstQ (ch : Channel) (b : Bool) (s : State) : (s.setLatch ch b).rstQ = s.rstQ := rfl
@[simp] theorem State.setLatch_rxQ (ch : Channel) (b : Bool) (s : State) : (s.setLatch ch b).rxQ = s.rxQ := rfl
@[simp] theorem State.setLatch_sched (ch : Channel) (b : Bool) (s : State) : (s.setLatch ch b).sched = s.sched := rfl
@[simp] theorem State.setLatch_hostClock (ch : Channel) (b : Bool) (s : State) : (s.setLatch ch b).hostClock = s.hostClock := rfl
@[simp] theorem State.setLatch_lineBusy (ch : Channel) (b : Bool) (s : State) : (s.setLatch ch b).lineBusy = s.lineBusy := rfl
@[simp] theorem State.setLatch_config (ch : Channel) (b : Bool) (s : State) : (s.setLatch ch b).config = s.config := rfl

/-! ### setTakePend -/

@[simp] theorem State.setTakePend_ctr (ch : Channel) (p : Option Bool) (s : State) : (s.setTakePend ch p).ctr = s.ctr := rfl
@[simp] theorem State.setTakePend_faMode (ch : Channel) (p : Option Bool) (s : State) : (s.setTakePend ch p).faMode = s.faMode := rfl
@[simp] theorem State.setTakePend_faShift (ch : Channel) (p : Option Bool) (s : State) : (s.setTakePend ch p).faShift = s.faShift := rfl
@[simp] theorem State.setTakePend_faCount (ch : Channel) (p : Option Bool) (s : State) : (s.setTakePend ch p).faCount = s.faCount := rfl
@[simp] theorem State.setTakePend_faBuf (ch : Channel) (p : Option Bool) (s : State) : (s.setTakePend ch p).faBuf = s.faBuf := rfl
@[simp] theorem State.setTakePend_dcFallTs (ch : Channel) (p : Option Bool) (s : State) : (s.setTakePend ch p).dcFallTs = s.dcFallTs := rfl
@[simp] theorem State.setTakePend_dcLatch (ch : Channel) (p : Option Bool) (s : State) : (s.setTakePend ch p).dcLatch = s.dcLatch := rfl
@[simp] theorem State.setTakePend_settled (ch : Channel) (p : Option Bool) (s : State) : (s.setTakePend ch p).settled = s.settled := rfl
@[simp] theorem State.setTakePend_obLowCount (ch : Channel) (p : Option Bool) (s : State) : (s.setTakePend ch p).obLowCount = s.obLowCount := rfl
@[simp] theorem State.setTakePend_obLastHighTs (ch : Channel) (p : Option Bool) (s : State) : (s.setTakePend ch p).obLastHighTs = s.obLastHighTs := rfl
@[simp] theorem State.setTakePend_obLastEvalTs (ch : Channel) (p : Option Bool) (s : State) : (s.setTakePend ch p).obLastEvalTs = s.obLastEvalTs := rfl
@[simp] theorem State.setTakePend_obst (ch : Channel) (p : Option Bool) (s : State) : (s.setTakePend ch p).obst = s.obst := rfl
@[simp] theorem State.setTakePend_dcTakePend (ch : Channel) (p : Option Bool) (s : State) : (s.setTakePend ch p).dcTakePend = s.dcTakePend.set ch p := rfl
@[simp] theorem State.setTakePend_obRstPend (ch : Channel) (p : Option Bool) (s : State) : (s.setTakePend ch p).obRstPend = s.obRstPend := rfl
@[simp] theorem State.setTakePend_fault (ch : Channel) (p : Option Bool) (s : State) : (s.setTakePend ch p).fault = s.fault := rfl
@[simp] theorem State.setTakePend_refused (ch : Channel) (p : Option Bool) (s : State) : (s.setTakePend ch p).refused = s.refused := rfl
@[simp] theorem State.setTakePend_out (ch : Channel) (p : Option Bool) (s : State) : (s.setTakePend ch p).out = s.out := rfl
@[simp] theorem State.setTakePend_mainResp (ch : Channel) (p : Option Bool) (s : State) : (s.setTakePend ch p).mainResp = s.mainResp := rfl
@[simp] theorem State.setTakePend_isrResp (ch : Channel) (p : Option Bool) (s : State) : (s.setTakePend ch p).isrResp = s.isrResp := rfl
@[simp] theorem State.setTakePend_mainQ (ch : Channel) (p : Option Bool) (s : State) : (s.setTakePend ch p).mainQ = s.mainQ := rfl
@[simp] theorem State.setTakePend_isrQ (ch : Channel) (p : Option Bool) (s : State) : (s.setTakePend ch p).isrQ = s.isrQ := rfl
@[simp] theorem State.setTakePend_rstQ (ch : Channel) (p : Option Bool) (s : State) : (s.setTakePend ch p).rstQ = s.rstQ := rfl
@[simp] theorem State.setTakePend_rxQ (ch : Channel) (p : Option Bool) (s : State) : (s.setTakePend ch p).rxQ = s.rxQ := rfl
@[simp] theorem State.setTakePend_sched (ch : Channel) (p : Option Bool) (s : State) : (s.setTakePend ch p).sched = s.sched := rfl
@[simp] theorem State.setTakePend_hostClock (ch : Channel) (p : Option Bool) (s : State) : (s.setTakePend ch p).hostClock = s.hostClock := rfl
@[simp] theorem State.setTakePend_lineBusy (ch : Channel) (p : Option Bool) (s : State) : (s.setTakePend ch p).lineBusy = s.lineBusy := rfl
@[simp] theorem State.setTakePend_config (ch : Channel) (p : Option Bool) (s : State) : (s.setTakePend ch p).config = s.config := rfl

/-! ### setLowCount -/

@[simp] theorem State.setLowCount_ctr (n : Nat) (s : State) : (s.setLowCount n).ctr = s.ctr := rfl
@[simp] theorem State.setLowCount_faMode (n : Nat) (s : State) : (s.setLowCount n).faMode = s.faMode := rfl
@[simp] theorem State.setLowCount_faShift (n : Nat) (s : State) : (s.setLowCount n).faShift = s.faShift := rfl
@[simp] theorem State.setLowCount_faCount (n : Nat) (s : State) : (s.setLowCount n).faCount = s.faCount := rfl
@[simp] theorem State.setLowCount_faBuf (n : Nat) (s : State) : (s.setLowCount n).faBuf = s.faBuf := rfl
@[simp] theorem State.setLowCount_dcFallTs (n : Nat) (s : State) : (s.setLowCount n).dcFallTs = s.dcFallTs := rfl
@[simp] theorem State.setLowCount_dcLatch (n : Nat) (s : State) : (s.setLowCount n).dcLatch = s.dcLatch := rfl
@[simp] theorem State.setLowCount_settled (n : Nat) (s : State) : (s.setLowCount n).settled = s.settled := rfl
@[simp] theorem State.setLowCount_obLowCount (n : Nat) (s : State) : (s.setLowCount n).obLowCount = n := rfl
@[simp] theorem State.setLowCount_obLastHighTs (n : Nat) (s : State) : (s.setLowCount n).obLastHighTs = s.obLastHighTs := rfl
@[simp] theorem State.setLowCount_obLastEvalTs (n : Nat) (s : State) : (s.setLowCount n).obLastEvalTs = s.obLastEvalTs := rfl
@[simp] theorem State.setLowCount_obst (n : Nat) (s : State) : (s.setLowCount n).obst = s.obst := rfl
@[simp] theorem State.setLowCount_dcTakePend (n : Nat) (s : State) : (s.setLowCount n).dcTakePend = s.dcTakePend := rfl
@[simp] theorem State.setLowCount_obRstPend (n : Nat) (s : State) : (s.setLowCount n).obRstPend = s.obRstPend := rfl
@[simp] theorem State.setLowCount_fault (n : Nat) (s : State) : (s.setLowCount n).fault = s.fault := rfl
@[simp] theorem State.setLowCount_refused (n : Nat) (s : State) : (s.setLowCount n).refused = s.refused := rfl
@[simp] theorem State.setLowCount_out (n : Nat) (s : State) : (s.setLowCount n).out = s.out := rfl
@[simp] theorem State.setLowCount_mainResp (n : Nat) (s : State) : (s.setLowCount n).mainResp = s.mainResp := rfl
@[simp] theorem State.setLowCount_isrResp (n : Nat) (s : State) : (s.setLowCount n).isrResp = s.isrResp := rfl
@[simp] theorem State.setLowCount_mainQ (n : Nat) (s : State) : (s.setLowCount n).mainQ = s.mainQ := rfl
@[simp] theorem State.setLowCount_isrQ (n : Nat) (s : State) : (s.setLowCount n).isrQ = s.isrQ := rfl
@[simp] theorem State.setLowCount_rstQ (n : Nat) (s : State) : (s.setLowCount n).rstQ = s.rstQ := rfl
@[simp] theorem State.setLowCount_rxQ (n : Nat) (s : State) : (s.setLowCount n).rxQ = s.rxQ := rfl
@[simp] theorem State.setLowCount_sched (n : Nat) (s : State) : (s.setLowCount n).sched = s.sched := rfl
@[simp] theorem State.setLowCount_hostClock (n : Nat) (s : State) : (s.setLowCount n).hostClock = s.hostClock := rfl
@[simp] theorem State.setLowCount_lineBusy (n : Nat) (s : State) : (s.setLowCount n).lineBusy = s.lineBusy := rfl
@[simp] theorem State.setLowCount_config (n : Nat) (s : State) : (s.setLowCount n).config = s.config := rfl

/-! ### setLastHigh -/

@[simp] theorem State.setLastHigh_ctr (x : Nat) (s : State) : (s.setLastHigh x).ctr = s.ctr := rfl
@[simp] theorem State.setLastHigh_faMode (x : Nat) (s : State) : (s.setLastHigh x).faMode = s.faMode := rfl
@[simp] theorem State.setLastHigh_faShift (x : Nat) (s : State) : (s.setLastHigh x).faShift = s.faShift := rfl
@[simp] theorem State.setLastHigh_faCount (x : Nat) (s : State) : (s.setLastHigh x).faCount = s.faCount := rfl
@[simp] theorem State.setLastHigh_faBuf (x : Nat) (s : State) : (s.setLastHigh x).faBuf = s.faBuf := rfl
@[simp] theorem State.setLastHigh_dcFallTs (x : Nat) (s : State) : (s.setLastHigh x).dcFallTs = s.dcFallTs := rfl
@[simp] theorem State.setLastHigh_dcLatch (x : Nat) (s : State) : (s.setLastHigh x).dcLatch = s.dcLatch := rfl
@[simp] theorem State.setLastHigh_settled (x : Nat) (s : State) : (s.setLastHigh x).settled = s.settled := rfl
@[simp] theorem State.setLastHigh_obLowCount (x : Nat) (s : State) : (s.setLastHigh x).obLowCount = s.obLowCount := rfl
@[simp] theorem State.setLastHigh_obLastHighTs (x : Nat) (s : State) : (s.setLastHigh x).obLastHighTs = x := rfl
@[simp] theorem State.setLastHigh_obLastEvalTs (x : Nat) (s : State) : (s.setLastHigh x).obLastEvalTs = s.obLastEvalTs := rfl
@[simp] theorem State.setLastHigh_obst (x : Nat) (s : State) : (s.setLastHigh x).obst = s.obst := rfl
@[simp] theorem State.setLastHigh_dcTakePend (x : Nat) (s : State) : (s.setLastHigh x).dcTakePend = s.dcTakePend := rfl
@[simp] theorem State.setLastHigh_obRstPend (x : Nat) (s : State) : (s.setLastHigh x).obRstPend = s.obRstPend := rfl
@[simp] theorem State.setLastHigh_fault (x : Nat) (s : State) : (s.setLastHigh x).fault = s.fault := rfl
@[simp] theorem State.setLastHigh_refused (x : Nat) (s : State) : (s.setLastHigh x).refused = s.refused := rfl
@[simp] theorem State.setLastHigh_out (x : Nat) (s : State) : (s.setLastHigh x).out = s.out := rfl
@[simp] theorem State.setLastHigh_mainResp (x : Nat) (s : State) : (s.setLastHigh x).mainResp = s.mainResp := rfl
@[simp] theorem State.setLastHigh_isrResp (x : Nat) (s : State) : (s.setLastHigh x).isrResp = s.isrResp := rfl
@[simp] theorem State.setLastHigh_mainQ (x : Nat) (s : State) : (s.setLastHigh x).mainQ = s.mainQ := rfl
@[simp] theorem State.setLastHigh_isrQ (x : Nat) (s : State) : (s.setLastHigh x).isrQ = s.isrQ := rfl
@[simp] theorem State.setLastHigh_rstQ (x : Nat) (s : State) : (s.setLastHigh x).rstQ = s.rstQ := rfl
@[simp] theorem State.setLastHigh_rxQ (x : Nat) (s : State) : (s.setLastHigh x).rxQ = s.rxQ := rfl
@[simp] theorem State.setLastHigh_sched (x : Nat) (s : State) : (s.setLastHigh x).sched = s.sched := rfl
@[simp] theorem State.setLastHigh_hostClock (x : Nat) (s : State) : (s.setLastHigh x).hostClock = s.hostClock := rfl
@[simp] theorem State.setLastHigh_lineBusy (x : Nat) (s : State) : (s.setLastHigh x).lineBusy = s.lineBusy := rfl
@[simp] theorem State.setLastHigh_config (x : Nat) (s : State) : (s.setLastHigh x).config = s.config := rfl

/-! ### setLastEval -/

@[simp] theorem State.setLastEval_ctr (x : Nat) (s : State) : (s.setLastEval x).ctr = s.ctr := rfl
@[simp] theorem State.setLastEval_faMode (x : Nat) (s : State) : (s.setLastEval x).faMode = s.faMode := rfl
@[simp] theorem State.setLastEval_faShift (x : Nat) (s : State) : (s.setLastEval x).faShift = s.faShift := rfl
@[simp] theorem State.setLastEval_faCount (x : Nat) (s : State) : (s.setLastEval x).faCount = s.faCount := rfl
@[simp] theorem State.setLastEval_faBuf (x : Nat) (s : State) : (s.setLastEval x).faBuf = s.faBuf := rfl
@[simp] theorem State.setLastEval_dcFallTs (x : Nat) (s : State) : (s.setLastEval x).dcFallTs = s.dcFallTs := rfl
@[simp] theorem State.setLastEval_dcLatch (x : Nat) (s : State) : (s.setLastEval x).dcLatch = s.dcLatch := rfl
@[simp] theorem State.setLastEval_settled (x : Nat) (s : State) : (s.setLastEval x).settled = s.settled := rfl
@[simp] theorem State.setLastEval_obLowCount (x : Nat) (s : State) : (s.setLastEval x).obLowCount = s.obLowCount := rfl
@[simp] theorem State.setLastEval_obLastHighTs (x : Nat) (s : State) : (s.setLastEval x).obLastHighTs = s.obLastHighTs := rfl
@[simp] theorem State.setLastEval_obLastEvalTs (x : Nat) (s : State) : (s.setLastEval x).obLastEvalTs = x := rfl
@[simp] theorem State.setLastEval_obst (x : Nat) (s : State) : (s.setLastEval x).obst = s.obst := rfl
@[simp] theorem State.setLastEval_dcTakePend (x : Nat) (s : State) : (s.setLastEval x).dcTakePend = s.dcTakePend := rfl
@[simp] theorem State.setLastEval_obRstPend (x : Nat) (s : State) : (s.setLastEval x).obRstPend = s.obRstPend := rfl
@[simp] theorem State.setLastEval_fault (x : Nat) (s : State) : (s.setLastEval x).fault = s.fault := rfl
@[simp] theorem State.setLastEval_refused (x : Nat) (s : State) : (s.setLastEval x).refused = s.refused := rfl
@[simp] theorem State.setLastEval_out (x : Nat) (s : State) : (s.setLastEval x).out = s.out := rfl
@[simp] theorem State.setLastEval_mainResp (x : Nat) (s : State) : (s.setLastEval x).mainResp = s.mainResp := rfl
@[simp] theorem State.setLastEval_isrResp (x : Nat) (s : State) : (s.setLastEval x).isrResp = s.isrResp := rfl
@[simp] theorem State.setLastEval_mainQ (x : Nat) (s : State) : (s.setLastEval x).mainQ = s.mainQ := rfl
@[simp] theorem State.setLastEval_isrQ (x : Nat) (s : State) : (s.setLastEval x).isrQ = s.isrQ := rfl
@[simp] theorem State.setLastEval_rstQ (x : Nat) (s : State) : (s.setLastEval x).rstQ = s.rstQ := rfl
@[simp] theorem State.setLastEval_rxQ (x : Nat) (s : State) : (s.setLastEval x).rxQ = s.rxQ := rfl
@[simp] theorem State.setLastEval_sched (x : Nat) (s : State) : (s.setLastEval x).sched = s.sched := rfl
@[simp] theorem State.setLastEval_hostClock (x : Nat) (s : State) : (s.setLastEval x).hostClock = s.hostClock := rfl
@[simp] theorem State.setLastEval_lineBusy (x : Nat) (s : State) : (s.setLastEval x).lineBusy = s.lineBusy := rfl
@[simp] theorem State.setLastEval_config (x : Nat) (s : State) : (s.setLastEval x).config = s.config := rfl

/-! ### setObst -/

@[simp] theorem State.setObst_ctr (o : Obstruction) (s : State) : (s.setObst o).ctr = s.ctr := rfl
@[simp] theorem State.setObst_faMode (o : Obstruction) (s : State) : (s.setObst o).faMode = s.faMode := rfl
@[simp] theorem State.setObst_faShift (o : Obstruction) (s : State) : (s.setObst o).faShift = s.faShift := rfl
@[simp] theorem State.setObst_faCount (o : Obstruction) (s : State) : (s.setObst o).faCount = s.faCount := rfl
@[simp] theorem State.setObst_faBuf (o : Obstruction) (s : State) : (s.setObst o).faBuf = s.faBuf := rfl
@[simp] theorem State.setObst_dcFallTs (o : Obstruction) (s : State) : (s.setObst o).dcFallTs = s.dcFallTs := rfl
@[simp] theorem State.setObst_dcLatch (o : Obstruction) (s : State) : (s.setObst o).dcLatch = s.dcLatch := rfl
@[simp] theorem State.setObst_settled (o : Obstruction) (s : State) : (s.setObst o).settled = s.settled := rfl
@[simp] theorem State.setObst_obLowCount (o : Obstruction) (s : State) : (s.setObst o).obLowCount = s.obLowCount := rfl
@[simp] theorem State.setObst_obLastHighTs (o : Obstruction) (s : State) : (s.setObst o).obLastHighTs = s.obLastHighTs := rfl
@[simp] theorem State.setObst_obLastEvalTs (o : Obstruction) (s : State) : (s.setObst o).obLastEvalTs = s.obLastEvalTs := rfl
@[simp] theorem State.setObst_obst (o : Obstruction) (s : State) : (s.setObst o).obst = o := rfl
@[simp] theorem State.setObst_dcTakePend (o : Obstruction) (s : State) : (s.setObst o).dcTakePend = s.dcTakePend := rfl
@[simp] theorem State.setObst_obRstPend (o : Obstruction) (s : State) : (s.setObst o).obRstPend = s.obRstPend := rfl
@[simp] theorem State.setObst_fault (o : Obstruction) (s : State) : (s.setObst o).fault = s.fault := rfl
@[simp] theorem State.setObst_refused (o : Obstruction) (s : State) : (s.setObst o).refused = s.refused := rfl
@[simp] theorem State.setObst_out (o : Obstruction) (s : State) : (s.setObst o).out = s.out := rfl
@[simp] theorem State.setObst_mainResp (o : Obstruction) (s : State) : (s.setObst o).mainResp = s.mainResp := rfl
@[simp] theorem State.setObst_isrResp (o : Obstruction) (s : State) : (s.setObst o).isrResp = s.isrResp := rfl
@[simp] theorem State.setObst_mainQ (o : Obstruction) (s : State) : (s.setObst o).mainQ = s.mainQ := rfl
@[simp] theorem State.setObst_isrQ (o : Obstruction) (s : State) : (s.setObst o).isrQ = s.isrQ := rfl
@[simp] theorem State.setObst_rstQ (o : Obstruction) (s : State) : (s.setObst o).rstQ = s.rstQ := rfl
@[simp] theorem State.setObst_rxQ (o : Obstruction) (s : State) : (s.setObst o).rxQ = s.rxQ := rfl
@[simp] theorem State.setObst_sched (o : Obstruction) (s : State) : (s.setObst o).sched = s.sched := rfl
@[simp] theorem State.setObst_hostClock (o : Obstruction) (s : State) : (s.setObst o).hostClock = s.hostClock := rfl
@[simp] theorem State.setObst_lineBusy (o : Obstruction) (s : State) : (s.setObst o).lineBusy = s.lineBusy := rfl
@[simp] theorem State.setObst_config (o : Obstruction) (s : State) : (s.setObst o).config = s.config := rfl

/-! ### setRstPend -/

@[simp] theorem State.setRstPend_ctr (p : Option WindowClass) (s : State) : (s.setRstPend p).ctr = s.ctr := rfl
@[simp] theorem State.setRstPend_faMode (p : Option WindowClass) (s : State) : (s.setRstPend p).faMode = s.faMode := rfl
@[simp] theorem State.setRstPend_faShift (p : Option WindowClass) (s : State) : (s.setRstPend p).faShift = s.faShift := rfl
@[simp] theorem State.setRstPend_faCount (p : Option WindowClass) (s : State) : (s.setRstPend p).faCount = s.faCount := rfl
@[simp] theorem State.setRstPend_faBuf (p : Option WindowClass) (s : State) : (s.setRstPend p).faBuf = s.faBuf := rfl
@[simp] theorem State.setRstPend_dcFallTs (p : Option WindowClass) (s : State) : (s.setRstPend p).dcFallTs = s.dcFallTs := rfl
@[simp] theorem State.setRstPend_dcLatch (p : Option WindowClass) (s : State) : (s.setRstPend p).dcLatch = s.dcLatch := rfl
@[simp] theorem State.setRstPend_settled (p : Option WindowClass) (s : State) : (s.setRstPend p).settled = s.settled := rfl
@[simp] theorem State.setRstPend_obLowCount (p : Option WindowClass) (s : State) : (s.setRstPend p).obLowCount = s.obLowCount := rfl
@[simp] theorem State.setRstPend_obLastHighTs (p : Option WindowClass) (s : State) : (s.setRstPend p).obLastHighTs = s.obLastHighTs := rfl
@[simp] theorem State.setRstPend_obLastEvalTs (p : Option WindowClass) (s : State) : (s.setRstPend p).obLastEvalTs = s.obLastEvalTs := rfl
@[simp] theorem State.setRstPend_obst (p : Option WindowClass) (s : State) : (s.setRstPend p).obst = s.obst := rfl
@[simp] theorem State.setRstPend_dcTakePend (p : Option WindowClass) (s : State) : (s.setRstPend p).dcTakePend = s.dcTakePend := rfl
@[simp] theorem State.setRstPend_obRstPend (p : Option WindowClass) (s : State) : (s.setRstPend p).obRstPend = p := rfl
@[simp] theorem State.setRstPend_fault (p : Option WindowClass) (s : State) : (s.setRstPend p).fault = s.fault := rfl
@[simp] theorem State.setRstPend_refused (p : Option WindowClass) (s : State) : (s.setRstPend p).refused = s.refused := rfl
@[simp] theorem State.setRstPend_out (p : Option WindowClass) (s : State) : (s.setRstPend p).out = s.out := rfl
@[simp] theorem State.setRstPend_mainResp (p : Option WindowClass) (s : State) : (s.setRstPend p).mainResp = s.mainResp := rfl
@[simp] theorem State.setRstPend_isrResp (p : Option WindowClass) (s : State) : (s.setRstPend p).isrResp = s.isrResp := rfl
@[simp] theorem State.setRstPend_mainQ (p : Option WindowClass) (s : State) : (s.setRstPend p).mainQ = s.mainQ := rfl
@[simp] theorem State.setRstPend_isrQ (p : Option WindowClass) (s : State) : (s.setRstPend p).isrQ = s.isrQ := rfl
@[simp] theorem State.setRstPend_rstQ (p : Option WindowClass) (s : State) : (s.setRstPend p).rstQ = s.rstQ := rfl
@[simp] theorem State.setRstPend_rxQ (p : Option WindowClass) (s : State) : (s.setRstPend p).rxQ = s.rxQ := rfl
@[simp] theorem State.setRstPend_sched (p : Option WindowClass) (s : State) : (s.setRstPend p).sched = s.sched := rfl
@[simp] theorem State.setRstPend_hostClock (p : Option WindowClass) (s : State) : (s.setRstPend p).hostClock = s.hostClock := rfl
@[simp] theorem State.setRstPend_lineBusy (p : Option WindowClass) (s : State) : (s.setRstPend p).lineBusy = s.lineBusy := rfl
@[simp] theorem State.setRstPend_config (p : Option WindowClass) (s : State) : (s.setRstPend p).config = s.config := rfl

/-! ### settle -/

@[simp] theorem State.settle_ctr (x : Nat) (s : State) : (s.settle x).ctr = s.ctr := rfl
@[simp] theorem State.settle_faMode (x : Nat) (s : State) : (s.settle x).faMode = s.faMode := rfl
@[simp] theorem State.settle_faShift (x : Nat) (s : State) : (s.settle x).faShift = s.faShift := rfl
@[simp] theorem State.settle_faCount (x : Nat) (s : State) : (s.settle x).faCount = s.faCount := rfl
@[simp] theorem State.settle_faBuf (x : Nat) (s : State) : (s.settle x).faBuf = s.faBuf := rfl
@[simp] theorem State.settle_dcFallTs (x : Nat) (s : State) : (s.settle x).dcFallTs = s.dcFallTs := rfl
@[simp] theorem State.settle_dcLatch (x : Nat) (s : State) : (s.settle x).dcLatch = s.dcLatch := rfl
@[simp] theorem State.settle_settled (x : Nat) (s : State) : (s.settle x).settled = settledAfter s.settled x := rfl
@[simp] theorem State.settle_obLowCount (x : Nat) (s : State) : (s.settle x).obLowCount = s.obLowCount := rfl
@[simp] theorem State.settle_obLastHighTs (x : Nat) (s : State) : (s.settle x).obLastHighTs = s.obLastHighTs := rfl
@[simp] theorem State.settle_obLastEvalTs (x : Nat) (s : State) : (s.settle x).obLastEvalTs = s.obLastEvalTs := rfl
@[simp] theorem State.settle_obst (x : Nat) (s : State) : (s.settle x).obst = s.obst := rfl
@[simp] theorem State.settle_dcTakePend (x : Nat) (s : State) : (s.settle x).dcTakePend = s.dcTakePend := rfl
@[simp] theorem State.settle_obRstPend (x : Nat) (s : State) : (s.settle x).obRstPend = s.obRstPend := rfl
@[simp] theorem State.settle_fault (x : Nat) (s : State) : (s.settle x).fault = s.fault := rfl
@[simp] theorem State.settle_refused (x : Nat) (s : State) : (s.settle x).refused = s.refused := rfl
@[simp] theorem State.settle_out (x : Nat) (s : State) : (s.settle x).out = s.out := rfl
@[simp] theorem State.settle_mainResp (x : Nat) (s : State) : (s.settle x).mainResp = s.mainResp := rfl
@[simp] theorem State.settle_isrResp (x : Nat) (s : State) : (s.settle x).isrResp = s.isrResp := rfl
@[simp] theorem State.settle_mainQ (x : Nat) (s : State) : (s.settle x).mainQ = s.mainQ := rfl
@[simp] theorem State.settle_isrQ (x : Nat) (s : State) : (s.settle x).isrQ = s.isrQ := rfl
@[simp] theorem State.settle_rstQ (x : Nat) (s : State) : (s.settle x).rstQ = s.rstQ := rfl
@[simp] theorem State.settle_rxQ (x : Nat) (s : State) : (s.settle x).rxQ = s.rxQ := rfl
@[simp] theorem State.settle_sched (x : Nat) (s : State) : (s.settle x).sched = s.sched := rfl
@[simp] theorem State.settle_hostClock (x : Nat) (s : State) : (s.settle x).hostClock = s.hostClock := rfl
@[simp] theorem State.settle_lineBusy (x : Nat) (s : State) : (s.settle x).lineBusy = s.lineBusy := rfl
@[simp] theorem State.settle_config (x : Nat) (s : State) : (s.settle x).config = s.config := rfl

/-! ### resetRegs -/

@[simp] theorem State.resetRegs_ctr (s : State) : (s.resetRegs).ctr = 0 := rfl
@[simp] theorem State.resetRegs_faMode (s : State) : (s.resetRegs).faMode = .scanning := rfl
@[simp] theorem State.resetRegs_faShift (s : State) : (s.resetRegs).faShift = 0 := rfl
@[simp] theorem State.resetRegs_faCount (s : State) : (s.resetRegs).faCount = 0 := rfl
@[simp] theorem State.resetRegs_faBuf (s : State) : (s.resetRegs).faBuf = Vector.replicate Config.frameLen 0 := rfl
@[simp] theorem State.resetRegs_dcFallTs (s : State) : (s.resetRegs).dcFallTs = .all 0 := rfl
@[simp] theorem State.resetRegs_dcLatch (s : State) : (s.resetRegs).dcLatch = .all false := rfl
@[simp] theorem State.resetRegs_settled (s : State) : (s.resetRegs).settled = false := rfl
@[simp] theorem State.resetRegs_obLowCount (s : State) : (s.resetRegs).obLowCount = 0 := rfl
@[simp] theorem State.resetRegs_obLastHighTs (s : State) : (s.resetRegs).obLastHighTs = 0 := rfl
@[simp] theorem State.resetRegs_obLastEvalTs (s : State) : (s.resetRegs).obLastEvalTs = 0 := rfl
@[simp] theorem State.resetRegs_obst (s : State) : (s.resetRegs).obst = .unknown := rfl
@[simp] theorem State.resetRegs_dcTakePend (s : State) : (s.resetRegs).dcTakePend = .all none := rfl
@[simp] theorem State.resetRegs_obRstPend (s : State) : (s.resetRegs).obRstPend = none := rfl
@[simp] theorem State.resetRegs_fault (s : State) : (s.resetRegs).fault = s.fault := rfl
@[simp] theorem State.resetRegs_refused (s : State) : (s.resetRegs).refused = s.refused := rfl
@[simp] theorem State.resetRegs_out (s : State) : (s.resetRegs).out = s.out := rfl
@[simp] theorem State.resetRegs_mainResp (s : State) : (s.resetRegs).mainResp = s.mainResp := rfl
@[simp] theorem State.resetRegs_isrResp (s : State) : (s.resetRegs).isrResp = s.isrResp := rfl
@[simp] theorem State.resetRegs_mainQ (s : State) : (s.resetRegs).mainQ = s.mainQ := rfl
@[simp] theorem State.resetRegs_isrQ (s : State) : (s.resetRegs).isrQ = s.isrQ := rfl
@[simp] theorem State.resetRegs_rstQ (s : State) : (s.resetRegs).rstQ = s.rstQ := rfl
@[simp] theorem State.resetRegs_rxQ (s : State) : (s.resetRegs).rxQ = s.rxQ := rfl
@[simp] theorem State.resetRegs_sched (s : State) : (s.resetRegs).sched = s.sched := rfl
@[simp] theorem State.resetRegs_hostClock (s : State) : (s.resetRegs).hostClock = none := rfl
@[simp] theorem State.resetRegs_lineBusy (s : State) : (s.resetRegs).lineBusy = s.lineBusy := rfl
@[simp] theorem State.resetRegs_config (s : State) : (s.resetRegs).config = s.config := rfl

/-! ### emit -/

@[simp] theorem State.emit_ctr (e : Event) (s : State) : (s.emit e).ctr = s.ctr := rfl
@[simp] theorem State.emit_faMode (e : Event) (s : State) : (s.emit e).faMode = s.faMode := rfl
@[simp] theorem State.emit_faShift (e : Event) (s : State) : (s.emit e).faShift = s.faShift := rfl
@[simp] theorem State.emit_faCount (e : Event) (s : State) : (s.emit e).faCount = s.faCount := rfl
@[simp] theorem State.emit_faBuf (e : Event) (s : State) : (s.emit e).faBuf = s.faBuf := rfl
@[simp] theorem State.emit_dcFallTs (e : Event) (s : State) : (s.emit e).dcFallTs = s.dcFallTs := rfl
@[simp] theorem State.emit_dcLatch (e : Event) (s : State) : (s.emit e).dcLatch = s.dcLatch := rfl
@[simp] theorem State.emit_settled (e : Event) (s : State) : (s.emit e).settled = s.settled := rfl
@[simp] theorem State.emit_obLowCount (e : Event) (s : State) : (s.emit e).obLowCount = s.obLowCount := rfl
@[simp] theorem State.emit_obLastHighTs (e : Event) (s : State) : (s.emit e).obLastHighTs = s.obLastHighTs := rfl
@[simp] theorem State.emit_obLastEvalTs (e : Event) (s : State) : (s.emit e).obLastEvalTs = s.obLastEvalTs := rfl
@[simp] theorem State.emit_obst (e : Event) (s : State) : (s.emit e).obst = s.obst := rfl
@[simp] theorem State.emit_dcTakePend (e : Event) (s : State) : (s.emit e).dcTakePend = s.dcTakePend := rfl
@[simp] theorem State.emit_obRstPend (e : Event) (s : State) : (s.emit e).obRstPend = s.obRstPend := rfl
@[simp] theorem State.emit_fault (e : Event) (s : State) : (s.emit e).fault = s.fault := rfl
@[simp] theorem State.emit_refused (e : Event) (s : State) : (s.emit e).refused = s.refused := rfl
@[simp] theorem State.emit_out (e : Event) (s : State) : (s.emit e).out = s.out ++ [e] := rfl
@[simp] theorem State.emit_mainResp (e : Event) (s : State) : (s.emit e).mainResp = s.mainResp := rfl
@[simp] theorem State.emit_isrResp (e : Event) (s : State) : (s.emit e).isrResp = s.isrResp := rfl
@[simp] theorem State.emit_mainQ (e : Event) (s : State) : (s.emit e).mainQ = s.mainQ := rfl
@[simp] theorem State.emit_isrQ (e : Event) (s : State) : (s.emit e).isrQ = s.isrQ := rfl
@[simp] theorem State.emit_rstQ (e : Event) (s : State) : (s.emit e).rstQ = s.rstQ := rfl
@[simp] theorem State.emit_rxQ (e : Event) (s : State) : (s.emit e).rxQ = s.rxQ := rfl
@[simp] theorem State.emit_sched (e : Event) (s : State) : (s.emit e).sched = s.sched := rfl
@[simp] theorem State.emit_hostClock (e : Event) (s : State) : (s.emit e).hostClock = s.hostClock := rfl
@[simp] theorem State.emit_lineBusy (e : Event) (s : State) : (s.emit e).lineBusy = s.lineBusy := rfl
@[simp] theorem State.emit_config (e : Event) (s : State) : (s.emit e).config = s.config := rfl

/-! ### respondMain -/

@[simp] theorem State.respondMain_ctr (r : Response) (s : State) : (s.respondMain r).ctr = s.ctr := rfl
@[simp] theorem State.respondMain_faMode (r : Response) (s : State) : (s.respondMain r).faMode = s.faMode := rfl
@[simp] theorem State.respondMain_faShift (r : Response) (s : State) : (s.respondMain r).faShift = s.faShift := rfl
@[simp] theorem State.respondMain_faCount (r : Response) (s : State) : (s.respondMain r).faCount = s.faCount := rfl
@[simp] theorem State.respondMain_faBuf (r : Response) (s : State) : (s.respondMain r).faBuf = s.faBuf := rfl
@[simp] theorem State.respondMain_dcFallTs (r : Response) (s : State) : (s.respondMain r).dcFallTs = s.dcFallTs := rfl
@[simp] theorem State.respondMain_dcLatch (r : Response) (s : State) : (s.respondMain r).dcLatch = s.dcLatch := rfl
@[simp] theorem State.respondMain_settled (r : Response) (s : State) : (s.respondMain r).settled = s.settled := rfl
@[simp] theorem State.respondMain_obLowCount (r : Response) (s : State) : (s.respondMain r).obLowCount = s.obLowCount := rfl
@[simp] theorem State.respondMain_obLastHighTs (r : Response) (s : State) : (s.respondMain r).obLastHighTs = s.obLastHighTs := rfl
@[simp] theorem State.respondMain_obLastEvalTs (r : Response) (s : State) : (s.respondMain r).obLastEvalTs = s.obLastEvalTs := rfl
@[simp] theorem State.respondMain_obst (r : Response) (s : State) : (s.respondMain r).obst = s.obst := rfl
@[simp] theorem State.respondMain_dcTakePend (r : Response) (s : State) : (s.respondMain r).dcTakePend = s.dcTakePend := rfl
@[simp] theorem State.respondMain_obRstPend (r : Response) (s : State) : (s.respondMain r).obRstPend = s.obRstPend := rfl
@[simp] theorem State.respondMain_fault (r : Response) (s : State) : (s.respondMain r).fault = s.fault := rfl
@[simp] theorem State.respondMain_refused (r : Response) (s : State) : (s.respondMain r).refused = s.refused := rfl
@[simp] theorem State.respondMain_out (r : Response) (s : State) : (s.respondMain r).out = s.out := rfl
@[simp] theorem State.respondMain_mainResp (r : Response) (s : State) : (s.respondMain r).mainResp = s.mainResp ++ [r] := rfl
@[simp] theorem State.respondMain_isrResp (r : Response) (s : State) : (s.respondMain r).isrResp = s.isrResp := rfl
@[simp] theorem State.respondMain_mainQ (r : Response) (s : State) : (s.respondMain r).mainQ = s.mainQ := rfl
@[simp] theorem State.respondMain_isrQ (r : Response) (s : State) : (s.respondMain r).isrQ = s.isrQ := rfl
@[simp] theorem State.respondMain_rstQ (r : Response) (s : State) : (s.respondMain r).rstQ = s.rstQ := rfl
@[simp] theorem State.respondMain_rxQ (r : Response) (s : State) : (s.respondMain r).rxQ = s.rxQ := rfl
@[simp] theorem State.respondMain_sched (r : Response) (s : State) : (s.respondMain r).sched = s.sched := rfl
@[simp] theorem State.respondMain_hostClock (r : Response) (s : State) : (s.respondMain r).hostClock = s.hostClock := rfl
@[simp] theorem State.respondMain_lineBusy (r : Response) (s : State) : (s.respondMain r).lineBusy = s.lineBusy := rfl
@[simp] theorem State.respondMain_config (r : Response) (s : State) : (s.respondMain r).config = s.config := rfl

/-! ### respondIsr -/

@[simp] theorem State.respondIsr_ctr (r : Response) (s : State) : (s.respondIsr r).ctr = s.ctr := rfl
@[simp] theorem State.respondIsr_faMode (r : Response) (s : State) : (s.respondIsr r).faMode = s.faMode := rfl
@[simp] theorem State.respondIsr_faShift (r : Response) (s : State) : (s.respondIsr r).faShift = s.faShift := rfl
@[simp] theorem State.respondIsr_faCount (r : Response) (s : State) : (s.respondIsr r).faCount = s.faCount := rfl
@[simp] theorem State.respondIsr_faBuf (r : Response) (s : State) : (s.respondIsr r).faBuf = s.faBuf := rfl
@[simp] theorem State.respondIsr_dcFallTs (r : Response) (s : State) : (s.respondIsr r).dcFallTs = s.dcFallTs := rfl
@[simp] theorem State.respondIsr_dcLatch (r : Response) (s : State) : (s.respondIsr r).dcLatch = s.dcLatch := rfl
@[simp] theorem State.respondIsr_settled (r : Response) (s : State) : (s.respondIsr r).settled = s.settled := rfl
@[simp] theorem State.respondIsr_obLowCount (r : Response) (s : State) : (s.respondIsr r).obLowCount = s.obLowCount := rfl
@[simp] theorem State.respondIsr_obLastHighTs (r : Response) (s : State) : (s.respondIsr r).obLastHighTs = s.obLastHighTs := rfl
@[simp] theorem State.respondIsr_obLastEvalTs (r : Response) (s : State) : (s.respondIsr r).obLastEvalTs = s.obLastEvalTs := rfl
@[simp] theorem State.respondIsr_obst (r : Response) (s : State) : (s.respondIsr r).obst = s.obst := rfl
@[simp] theorem State.respondIsr_dcTakePend (r : Response) (s : State) : (s.respondIsr r).dcTakePend = s.dcTakePend := rfl
@[simp] theorem State.respondIsr_obRstPend (r : Response) (s : State) : (s.respondIsr r).obRstPend = s.obRstPend := rfl
@[simp] theorem State.respondIsr_fault (r : Response) (s : State) : (s.respondIsr r).fault = s.fault := rfl
@[simp] theorem State.respondIsr_refused (r : Response) (s : State) : (s.respondIsr r).refused = s.refused := rfl
@[simp] theorem State.respondIsr_out (r : Response) (s : State) : (s.respondIsr r).out = s.out := rfl
@[simp] theorem State.respondIsr_mainResp (r : Response) (s : State) : (s.respondIsr r).mainResp = s.mainResp := rfl
@[simp] theorem State.respondIsr_isrResp (r : Response) (s : State) : (s.respondIsr r).isrResp = s.isrResp ++ [r] := rfl
@[simp] theorem State.respondIsr_mainQ (r : Response) (s : State) : (s.respondIsr r).mainQ = s.mainQ := rfl
@[simp] theorem State.respondIsr_isrQ (r : Response) (s : State) : (s.respondIsr r).isrQ = s.isrQ := rfl
@[simp] theorem State.respondIsr_rstQ (r : Response) (s : State) : (s.respondIsr r).rstQ = s.rstQ := rfl
@[simp] theorem State.respondIsr_rxQ (r : Response) (s : State) : (s.respondIsr r).rxQ = s.rxQ := rfl
@[simp] theorem State.respondIsr_sched (r : Response) (s : State) : (s.respondIsr r).sched = s.sched := rfl
@[simp] theorem State.respondIsr_hostClock (r : Response) (s : State) : (s.respondIsr r).hostClock = s.hostClock := rfl
@[simp] theorem State.respondIsr_lineBusy (r : Response) (s : State) : (s.respondIsr r).lineBusy = s.lineBusy := rfl
@[simp] theorem State.respondIsr_config (r : Response) (s : State) : (s.respondIsr r).config = s.config := rfl

/-! ### raise -/

@[simp] theorem State.raise_ctr (f : FaultMark) (s : State) : (s.raise f).ctr = s.ctr := rfl
@[simp] theorem State.raise_faMode (f : FaultMark) (s : State) : (s.raise f).faMode = s.faMode := rfl
@[simp] theorem State.raise_faShift (f : FaultMark) (s : State) : (s.raise f).faShift = s.faShift := rfl
@[simp] theorem State.raise_faCount (f : FaultMark) (s : State) : (s.raise f).faCount = s.faCount := rfl
@[simp] theorem State.raise_faBuf (f : FaultMark) (s : State) : (s.raise f).faBuf = s.faBuf := rfl
@[simp] theorem State.raise_dcFallTs (f : FaultMark) (s : State) : (s.raise f).dcFallTs = s.dcFallTs := rfl
@[simp] theorem State.raise_dcLatch (f : FaultMark) (s : State) : (s.raise f).dcLatch = s.dcLatch := rfl
@[simp] theorem State.raise_settled (f : FaultMark) (s : State) : (s.raise f).settled = s.settled := rfl
@[simp] theorem State.raise_obLowCount (f : FaultMark) (s : State) : (s.raise f).obLowCount = s.obLowCount := rfl
@[simp] theorem State.raise_obLastHighTs (f : FaultMark) (s : State) : (s.raise f).obLastHighTs = s.obLastHighTs := rfl
@[simp] theorem State.raise_obLastEvalTs (f : FaultMark) (s : State) : (s.raise f).obLastEvalTs = s.obLastEvalTs := rfl
@[simp] theorem State.raise_obst (f : FaultMark) (s : State) : (s.raise f).obst = s.obst := rfl
@[simp] theorem State.raise_dcTakePend (f : FaultMark) (s : State) : (s.raise f).dcTakePend = s.dcTakePend := rfl
@[simp] theorem State.raise_obRstPend (f : FaultMark) (s : State) : (s.raise f).obRstPend = s.obRstPend := rfl
@[simp] theorem State.raise_fault (f : FaultMark) (s : State) : (s.raise f).fault = s.fault ++ [f] := rfl
@[simp] theorem State.raise_refused (f : FaultMark) (s : State) : (s.raise f).refused = s.refused := rfl
@[simp] theorem State.raise_out (f : FaultMark) (s : State) : (s.raise f).out = s.out := rfl
@[simp] theorem State.raise_mainResp (f : FaultMark) (s : State) : (s.raise f).mainResp = s.mainResp := rfl
@[simp] theorem State.raise_isrResp (f : FaultMark) (s : State) : (s.raise f).isrResp = s.isrResp := rfl
@[simp] theorem State.raise_mainQ (f : FaultMark) (s : State) : (s.raise f).mainQ = s.mainQ := rfl
@[simp] theorem State.raise_isrQ (f : FaultMark) (s : State) : (s.raise f).isrQ = s.isrQ := rfl
@[simp] theorem State.raise_rstQ (f : FaultMark) (s : State) : (s.raise f).rstQ = s.rstQ := rfl
@[simp] theorem State.raise_rxQ (f : FaultMark) (s : State) : (s.raise f).rxQ = s.rxQ := rfl
@[simp] theorem State.raise_sched (f : FaultMark) (s : State) : (s.raise f).sched = s.sched := rfl
@[simp] theorem State.raise_hostClock (f : FaultMark) (s : State) : (s.raise f).hostClock = s.hostClock := rfl
@[simp] theorem State.raise_lineBusy (f : FaultMark) (s : State) : (s.raise f).lineBusy = s.lineBusy := rfl
@[simp] theorem State.raise_config (f : FaultMark) (s : State) : (s.raise f).config = s.config := rfl

/-! ### refuse -/

@[simp] theorem State.refuse_ctr (w : RefuseReason) (i : Instr) (s : State) : (s.refuse w i).ctr = s.ctr := rfl
@[simp] theorem State.refuse_faMode (w : RefuseReason) (i : Instr) (s : State) : (s.refuse w i).faMode = s.faMode := rfl
@[simp] theorem State.refuse_faShift (w : RefuseReason) (i : Instr) (s : State) : (s.refuse w i).faShift = s.faShift := rfl
@[simp] theorem State.refuse_faCount (w : RefuseReason) (i : Instr) (s : State) : (s.refuse w i).faCount = s.faCount := rfl
@[simp] theorem State.refuse_faBuf (w : RefuseReason) (i : Instr) (s : State) : (s.refuse w i).faBuf = s.faBuf := rfl
@[simp] theorem State.refuse_dcFallTs (w : RefuseReason) (i : Instr) (s : State) : (s.refuse w i).dcFallTs = s.dcFallTs := rfl
@[simp] theorem State.refuse_dcLatch (w : RefuseReason) (i : Instr) (s : State) : (s.refuse w i).dcLatch = s.dcLatch := rfl
@[simp] theorem State.refuse_settled (w : RefuseReason) (i : Instr) (s : State) : (s.refuse w i).settled = s.settled := rfl
@[simp] theorem State.refuse_obLowCount (w : RefuseReason) (i : Instr) (s : State) : (s.refuse w i).obLowCount = s.obLowCount := rfl
@[simp] theorem State.refuse_obLastHighTs (w : RefuseReason) (i : Instr) (s : State) : (s.refuse w i).obLastHighTs = s.obLastHighTs := rfl
@[simp] theorem State.refuse_obLastEvalTs (w : RefuseReason) (i : Instr) (s : State) : (s.refuse w i).obLastEvalTs = s.obLastEvalTs := rfl
@[simp] theorem State.refuse_obst (w : RefuseReason) (i : Instr) (s : State) : (s.refuse w i).obst = s.obst := rfl
@[simp] theorem State.refuse_dcTakePend (w : RefuseReason) (i : Instr) (s : State) : (s.refuse w i).dcTakePend = s.dcTakePend := rfl
@[simp] theorem State.refuse_obRstPend (w : RefuseReason) (i : Instr) (s : State) : (s.refuse w i).obRstPend = s.obRstPend := rfl
@[simp] theorem State.refuse_fault (w : RefuseReason) (i : Instr) (s : State) : (s.refuse w i).fault = s.fault := rfl
@[simp] theorem State.refuse_refused (w : RefuseReason) (i : Instr) (s : State) : (s.refuse w i).refused = s.refused ++ [(w, i)] := rfl
@[simp] theorem State.refuse_out (w : RefuseReason) (i : Instr) (s : State) : (s.refuse w i).out = s.out := rfl
@[simp] theorem State.refuse_mainResp (w : RefuseReason) (i : Instr) (s : State) : (s.refuse w i).mainResp = s.mainResp := rfl
@[simp] theorem State.refuse_isrResp (w : RefuseReason) (i : Instr) (s : State) : (s.refuse w i).isrResp = s.isrResp := rfl
@[simp] theorem State.refuse_mainQ (w : RefuseReason) (i : Instr) (s : State) : (s.refuse w i).mainQ = s.mainQ := rfl
@[simp] theorem State.refuse_isrQ (w : RefuseReason) (i : Instr) (s : State) : (s.refuse w i).isrQ = s.isrQ := rfl
@[simp] theorem State.refuse_rstQ (w : RefuseReason) (i : Instr) (s : State) : (s.refuse w i).rstQ = s.rstQ := rfl
@[simp] theorem State.refuse_rxQ (w : RefuseReason) (i : Instr) (s : State) : (s.refuse w i).rxQ = s.rxQ := rfl
@[simp] theorem State.refuse_sched (w : RefuseReason) (i : Instr) (s : State) : (s.refuse w i).sched = s.sched := rfl
@[simp] theorem State.refuse_hostClock (w : RefuseReason) (i : Instr) (s : State) : (s.refuse w i).hostClock = s.hostClock := rfl
@[simp] theorem State.refuse_lineBusy (w : RefuseReason) (i : Instr) (s : State) : (s.refuse w i).lineBusy = s.lineBusy := rfl
@[simp] theorem State.refuse_config (w : RefuseReason) (i : Instr) (s : State) : (s.refuse w i).config = s.config := rfl

/-! ### advance -/

@[simp] theorem State.advance_ctr (s : State) : (s.advance).ctr = s.ctr := rfl
@[simp] theorem State.advance_faMode (s : State) : (s.advance).faMode = s.faMode := rfl
@[simp] theorem State.advance_faShift (s : State) : (s.advance).faShift = s.faShift := rfl
@[simp] theorem State.advance_faCount (s : State) : (s.advance).faCount = s.faCount := rfl
@[simp] theorem State.advance_faBuf (s : State) : (s.advance).faBuf = s.faBuf := rfl
@[simp] theorem State.advance_dcFallTs (s : State) : (s.advance).dcFallTs = s.dcFallTs := rfl
@[simp] theorem State.advance_dcLatch (s : State) : (s.advance).dcLatch = s.dcLatch := rfl
@[simp] theorem State.advance_settled (s : State) : (s.advance).settled = s.settled := rfl
@[simp] theorem State.advance_obLowCount (s : State) : (s.advance).obLowCount = s.obLowCount := rfl
@[simp] theorem State.advance_obLastHighTs (s : State) : (s.advance).obLastHighTs = s.obLastHighTs := rfl
@[simp] theorem State.advance_obLastEvalTs (s : State) : (s.advance).obLastEvalTs = s.obLastEvalTs := rfl
@[simp] theorem State.advance_obst (s : State) : (s.advance).obst = s.obst := rfl
@[simp] theorem State.advance_dcTakePend (s : State) : (s.advance).dcTakePend = s.dcTakePend := rfl
@[simp] theorem State.advance_obRstPend (s : State) : (s.advance).obRstPend = s.obRstPend := rfl
@[simp] theorem State.advance_fault (s : State) : (s.advance).fault = s.fault := rfl
@[simp] theorem State.advance_refused (s : State) : (s.advance).refused = s.refused := rfl
@[simp] theorem State.advance_out (s : State) : (s.advance).out = s.out := rfl
@[simp] theorem State.advance_mainResp (s : State) : (s.advance).mainResp = s.mainResp := rfl
@[simp] theorem State.advance_isrResp (s : State) : (s.advance).isrResp = s.isrResp := rfl
@[simp] theorem State.advance_mainQ (s : State) : (s.advance).mainQ = s.mainQ := rfl
@[simp] theorem State.advance_isrQ (s : State) : (s.advance).isrQ = s.isrQ := rfl
@[simp] theorem State.advance_rstQ (s : State) : (s.advance).rstQ = s.rstQ := rfl
@[simp] theorem State.advance_rxQ (s : State) : (s.advance).rxQ = s.rxQ := rfl
@[simp] theorem State.advance_sched (s : State) : (s.advance).sched = s.sched.tail := rfl
@[simp] theorem State.advance_hostClock (s : State) : (s.advance).hostClock = s.hostClock := rfl
@[simp] theorem State.advance_lineBusy (s : State) : (s.advance).lineBusy = s.lineBusy := rfl
@[simp] theorem State.advance_config (s : State) : (s.advance).config = s.config := rfl

/-! ### setMainQ -/

@[simp] theorem State.setMainQ_ctr (q : List Issued) (s : State) : (s.setMainQ q).ctr = s.ctr := rfl
@[simp] theorem State.setMainQ_faMode (q : List Issued) (s : State) : (s.setMainQ q).faMode = s.faMode := rfl
@[simp] theorem State.setMainQ_faShift (q : List Issued) (s : State) : (s.setMainQ q).faShift = s.faShift := rfl
@[simp] theorem State.setMainQ_faCount (q : List Issued) (s : State) : (s.setMainQ q).faCount = s.faCount := rfl
@[simp] theorem State.setMainQ_faBuf (q : List Issued) (s : State) : (s.setMainQ q).faBuf = s.faBuf := rfl
@[simp] theorem State.setMainQ_dcFallTs (q : List Issued) (s : State) : (s.setMainQ q).dcFallTs = s.dcFallTs := rfl
@[simp] theorem State.setMainQ_dcLatch (q : List Issued) (s : State) : (s.setMainQ q).dcLatch = s.dcLatch := rfl
@[simp] theorem State.setMainQ_settled (q : List Issued) (s : State) : (s.setMainQ q).settled = s.settled := rfl
@[simp] theorem State.setMainQ_obLowCount (q : List Issued) (s : State) : (s.setMainQ q).obLowCount = s.obLowCount := rfl
@[simp] theorem State.setMainQ_obLastHighTs (q : List Issued) (s : State) : (s.setMainQ q).obLastHighTs = s.obLastHighTs := rfl
@[simp] theorem State.setMainQ_obLastEvalTs (q : List Issued) (s : State) : (s.setMainQ q).obLastEvalTs = s.obLastEvalTs := rfl
@[simp] theorem State.setMainQ_obst (q : List Issued) (s : State) : (s.setMainQ q).obst = s.obst := rfl
@[simp] theorem State.setMainQ_dcTakePend (q : List Issued) (s : State) : (s.setMainQ q).dcTakePend = s.dcTakePend := rfl
@[simp] theorem State.setMainQ_obRstPend (q : List Issued) (s : State) : (s.setMainQ q).obRstPend = s.obRstPend := rfl
@[simp] theorem State.setMainQ_fault (q : List Issued) (s : State) : (s.setMainQ q).fault = s.fault := rfl
@[simp] theorem State.setMainQ_refused (q : List Issued) (s : State) : (s.setMainQ q).refused = s.refused := rfl
@[simp] theorem State.setMainQ_out (q : List Issued) (s : State) : (s.setMainQ q).out = s.out := rfl
@[simp] theorem State.setMainQ_mainResp (q : List Issued) (s : State) : (s.setMainQ q).mainResp = s.mainResp := rfl
@[simp] theorem State.setMainQ_isrResp (q : List Issued) (s : State) : (s.setMainQ q).isrResp = s.isrResp := rfl
@[simp] theorem State.setMainQ_mainQ (q : List Issued) (s : State) : (s.setMainQ q).mainQ = q := rfl
@[simp] theorem State.setMainQ_isrQ (q : List Issued) (s : State) : (s.setMainQ q).isrQ = s.isrQ := rfl
@[simp] theorem State.setMainQ_rstQ (q : List Issued) (s : State) : (s.setMainQ q).rstQ = s.rstQ := rfl
@[simp] theorem State.setMainQ_rxQ (q : List Issued) (s : State) : (s.setMainQ q).rxQ = s.rxQ := rfl
@[simp] theorem State.setMainQ_sched (q : List Issued) (s : State) : (s.setMainQ q).sched = s.sched := rfl
@[simp] theorem State.setMainQ_hostClock (q : List Issued) (s : State) : (s.setMainQ q).hostClock = s.hostClock := rfl
@[simp] theorem State.setMainQ_lineBusy (q : List Issued) (s : State) : (s.setMainQ q).lineBusy = s.lineBusy := rfl
@[simp] theorem State.setMainQ_config (q : List Issued) (s : State) : (s.setMainQ q).config = s.config := rfl

/-! ### setIsrQ -/

@[simp] theorem State.setIsrQ_ctr (q : List Issued) (s : State) : (s.setIsrQ q).ctr = s.ctr := rfl
@[simp] theorem State.setIsrQ_faMode (q : List Issued) (s : State) : (s.setIsrQ q).faMode = s.faMode := rfl
@[simp] theorem State.setIsrQ_faShift (q : List Issued) (s : State) : (s.setIsrQ q).faShift = s.faShift := rfl
@[simp] theorem State.setIsrQ_faCount (q : List Issued) (s : State) : (s.setIsrQ q).faCount = s.faCount := rfl
@[simp] theorem State.setIsrQ_faBuf (q : List Issued) (s : State) : (s.setIsrQ q).faBuf = s.faBuf := rfl
@[simp] theorem State.setIsrQ_dcFallTs (q : List Issued) (s : State) : (s.setIsrQ q).dcFallTs = s.dcFallTs := rfl
@[simp] theorem State.setIsrQ_dcLatch (q : List Issued) (s : State) : (s.setIsrQ q).dcLatch = s.dcLatch := rfl
@[simp] theorem State.setIsrQ_settled (q : List Issued) (s : State) : (s.setIsrQ q).settled = s.settled := rfl
@[simp] theorem State.setIsrQ_obLowCount (q : List Issued) (s : State) : (s.setIsrQ q).obLowCount = s.obLowCount := rfl
@[simp] theorem State.setIsrQ_obLastHighTs (q : List Issued) (s : State) : (s.setIsrQ q).obLastHighTs = s.obLastHighTs := rfl
@[simp] theorem State.setIsrQ_obLastEvalTs (q : List Issued) (s : State) : (s.setIsrQ q).obLastEvalTs = s.obLastEvalTs := rfl
@[simp] theorem State.setIsrQ_obst (q : List Issued) (s : State) : (s.setIsrQ q).obst = s.obst := rfl
@[simp] theorem State.setIsrQ_dcTakePend (q : List Issued) (s : State) : (s.setIsrQ q).dcTakePend = s.dcTakePend := rfl
@[simp] theorem State.setIsrQ_obRstPend (q : List Issued) (s : State) : (s.setIsrQ q).obRstPend = s.obRstPend := rfl
@[simp] theorem State.setIsrQ_fault (q : List Issued) (s : State) : (s.setIsrQ q).fault = s.fault := rfl
@[simp] theorem State.setIsrQ_refused (q : List Issued) (s : State) : (s.setIsrQ q).refused = s.refused := rfl
@[simp] theorem State.setIsrQ_out (q : List Issued) (s : State) : (s.setIsrQ q).out = s.out := rfl
@[simp] theorem State.setIsrQ_mainResp (q : List Issued) (s : State) : (s.setIsrQ q).mainResp = s.mainResp := rfl
@[simp] theorem State.setIsrQ_isrResp (q : List Issued) (s : State) : (s.setIsrQ q).isrResp = s.isrResp := rfl
@[simp] theorem State.setIsrQ_mainQ (q : List Issued) (s : State) : (s.setIsrQ q).mainQ = s.mainQ := rfl
@[simp] theorem State.setIsrQ_isrQ (q : List Issued) (s : State) : (s.setIsrQ q).isrQ = q := rfl
@[simp] theorem State.setIsrQ_rstQ (q : List Issued) (s : State) : (s.setIsrQ q).rstQ = s.rstQ := rfl
@[simp] theorem State.setIsrQ_rxQ (q : List Issued) (s : State) : (s.setIsrQ q).rxQ = s.rxQ := rfl
@[simp] theorem State.setIsrQ_sched (q : List Issued) (s : State) : (s.setIsrQ q).sched = s.sched := rfl
@[simp] theorem State.setIsrQ_hostClock (q : List Issued) (s : State) : (s.setIsrQ q).hostClock = s.hostClock := rfl
@[simp] theorem State.setIsrQ_lineBusy (q : List Issued) (s : State) : (s.setIsrQ q).lineBusy = s.lineBusy := rfl
@[simp] theorem State.setIsrQ_config (q : List Issued) (s : State) : (s.setIsrQ q).config = s.config := rfl

/-! ### setRstQ -/

@[simp] theorem State.setRstQ_ctr (q : List Issued) (s : State) : (s.setRstQ q).ctr = s.ctr := rfl
@[simp] theorem State.setRstQ_faMode (q : List Issued) (s : State) : (s.setRstQ q).faMode = s.faMode := rfl
@[simp] theorem State.setRstQ_faShift (q : List Issued) (s : State) : (s.setRstQ q).faShift = s.faShift := rfl
@[simp] theorem State.setRstQ_faCount (q : List Issued) (s : State) : (s.setRstQ q).faCount = s.faCount := rfl
@[simp] theorem State.setRstQ_faBuf (q : List Issued) (s : State) : (s.setRstQ q).faBuf = s.faBuf := rfl
@[simp] theorem State.setRstQ_dcFallTs (q : List Issued) (s : State) : (s.setRstQ q).dcFallTs = s.dcFallTs := rfl
@[simp] theorem State.setRstQ_dcLatch (q : List Issued) (s : State) : (s.setRstQ q).dcLatch = s.dcLatch := rfl
@[simp] theorem State.setRstQ_settled (q : List Issued) (s : State) : (s.setRstQ q).settled = s.settled := rfl
@[simp] theorem State.setRstQ_obLowCount (q : List Issued) (s : State) : (s.setRstQ q).obLowCount = s.obLowCount := rfl
@[simp] theorem State.setRstQ_obLastHighTs (q : List Issued) (s : State) : (s.setRstQ q).obLastHighTs = s.obLastHighTs := rfl
@[simp] theorem State.setRstQ_obLastEvalTs (q : List Issued) (s : State) : (s.setRstQ q).obLastEvalTs = s.obLastEvalTs := rfl
@[simp] theorem State.setRstQ_obst (q : List Issued) (s : State) : (s.setRstQ q).obst = s.obst := rfl
@[simp] theorem State.setRstQ_dcTakePend (q : List Issued) (s : State) : (s.setRstQ q).dcTakePend = s.dcTakePend := rfl
@[simp] theorem State.setRstQ_obRstPend (q : List Issued) (s : State) : (s.setRstQ q).obRstPend = s.obRstPend := rfl
@[simp] theorem State.setRstQ_fault (q : List Issued) (s : State) : (s.setRstQ q).fault = s.fault := rfl
@[simp] theorem State.setRstQ_refused (q : List Issued) (s : State) : (s.setRstQ q).refused = s.refused := rfl
@[simp] theorem State.setRstQ_out (q : List Issued) (s : State) : (s.setRstQ q).out = s.out := rfl
@[simp] theorem State.setRstQ_mainResp (q : List Issued) (s : State) : (s.setRstQ q).mainResp = s.mainResp := rfl
@[simp] theorem State.setRstQ_isrResp (q : List Issued) (s : State) : (s.setRstQ q).isrResp = s.isrResp := rfl
@[simp] theorem State.setRstQ_mainQ (q : List Issued) (s : State) : (s.setRstQ q).mainQ = s.mainQ := rfl
@[simp] theorem State.setRstQ_isrQ (q : List Issued) (s : State) : (s.setRstQ q).isrQ = s.isrQ := rfl
@[simp] theorem State.setRstQ_rstQ (q : List Issued) (s : State) : (s.setRstQ q).rstQ = q := rfl
@[simp] theorem State.setRstQ_rxQ (q : List Issued) (s : State) : (s.setRstQ q).rxQ = s.rxQ := rfl
@[simp] theorem State.setRstQ_sched (q : List Issued) (s : State) : (s.setRstQ q).sched = s.sched := rfl
@[simp] theorem State.setRstQ_hostClock (q : List Issued) (s : State) : (s.setRstQ q).hostClock = s.hostClock := rfl
@[simp] theorem State.setRstQ_lineBusy (q : List Issued) (s : State) : (s.setRstQ q).lineBusy = s.lineBusy := rfl
@[simp] theorem State.setRstQ_config (q : List Issued) (s : State) : (s.setRstQ q).config = s.config := rfl

/-! ### setRxQ -/

@[simp] theorem State.setRxQ_ctr (q : List Message) (s : State) : (s.setRxQ q).ctr = s.ctr := rfl
@[simp] theorem State.setRxQ_faMode (q : List Message) (s : State) : (s.setRxQ q).faMode = s.faMode := rfl
@[simp] theorem State.setRxQ_faShift (q : List Message) (s : State) : (s.setRxQ q).faShift = s.faShift := rfl
@[simp] theorem State.setRxQ_faCount (q : List Message) (s : State) : (s.setRxQ q).faCount = s.faCount := rfl
@[simp] theorem State.setRxQ_faBuf (q : List Message) (s : State) : (s.setRxQ q).faBuf = s.faBuf := rfl
@[simp] theorem State.setRxQ_dcFallTs (q : List Message) (s : State) : (s.setRxQ q).dcFallTs = s.dcFallTs := rfl
@[simp] theorem State.setRxQ_dcLatch (q : List Message) (s : State) : (s.setRxQ q).dcLatch = s.dcLatch := rfl
@[simp] theorem State.setRxQ_settled (q : List Message) (s : State) : (s.setRxQ q).settled = s.settled := rfl
@[simp] theorem State.setRxQ_obLowCount (q : List Message) (s : State) : (s.setRxQ q).obLowCount = s.obLowCount := rfl
@[simp] theorem State.setRxQ_obLastHighTs (q : List Message) (s : State) : (s.setRxQ q).obLastHighTs = s.obLastHighTs := rfl
@[simp] theorem State.setRxQ_obLastEvalTs (q : List Message) (s : State) : (s.setRxQ q).obLastEvalTs = s.obLastEvalTs := rfl
@[simp] theorem State.setRxQ_obst (q : List Message) (s : State) : (s.setRxQ q).obst = s.obst := rfl
@[simp] theorem State.setRxQ_dcTakePend (q : List Message) (s : State) : (s.setRxQ q).dcTakePend = s.dcTakePend := rfl
@[simp] theorem State.setRxQ_obRstPend (q : List Message) (s : State) : (s.setRxQ q).obRstPend = s.obRstPend := rfl
@[simp] theorem State.setRxQ_fault (q : List Message) (s : State) : (s.setRxQ q).fault = s.fault := rfl
@[simp] theorem State.setRxQ_refused (q : List Message) (s : State) : (s.setRxQ q).refused = s.refused := rfl
@[simp] theorem State.setRxQ_out (q : List Message) (s : State) : (s.setRxQ q).out = s.out := rfl
@[simp] theorem State.setRxQ_mainResp (q : List Message) (s : State) : (s.setRxQ q).mainResp = s.mainResp := rfl
@[simp] theorem State.setRxQ_isrResp (q : List Message) (s : State) : (s.setRxQ q).isrResp = s.isrResp := rfl
@[simp] theorem State.setRxQ_mainQ (q : List Message) (s : State) : (s.setRxQ q).mainQ = s.mainQ := rfl
@[simp] theorem State.setRxQ_isrQ (q : List Message) (s : State) : (s.setRxQ q).isrQ = s.isrQ := rfl
@[simp] theorem State.setRxQ_rstQ (q : List Message) (s : State) : (s.setRxQ q).rstQ = s.rstQ := rfl
@[simp] theorem State.setRxQ_rxQ (q : List Message) (s : State) : (s.setRxQ q).rxQ = q := rfl
@[simp] theorem State.setRxQ_sched (q : List Message) (s : State) : (s.setRxQ q).sched = s.sched := rfl
@[simp] theorem State.setRxQ_hostClock (q : List Message) (s : State) : (s.setRxQ q).hostClock = s.hostClock := rfl
@[simp] theorem State.setRxQ_lineBusy (q : List Message) (s : State) : (s.setRxQ q).lineBusy = s.lineBusy := rfl
@[simp] theorem State.setRxQ_config (q : List Message) (s : State) : (s.setRxQ q).config = s.config := rfl

/-! ### setHostClock -/

@[simp] theorem State.setHostClock_ctr (c : Option Nat) (s : State) : (s.setHostClock c).ctr = s.ctr := rfl
@[simp] theorem State.setHostClock_faMode (c : Option Nat) (s : State) : (s.setHostClock c).faMode = s.faMode := rfl
@[simp] theorem State.setHostClock_faShift (c : Option Nat) (s : State) : (s.setHostClock c).faShift = s.faShift := rfl
@[simp] theorem State.setHostClock_faCount (c : Option Nat) (s : State) : (s.setHostClock c).faCount = s.faCount := rfl
@[simp] theorem State.setHostClock_faBuf (c : Option Nat) (s : State) : (s.setHostClock c).faBuf = s.faBuf := rfl
@[simp] theorem State.setHostClock_dcFallTs (c : Option Nat) (s : State) : (s.setHostClock c).dcFallTs = s.dcFallTs := rfl
@[simp] theorem State.setHostClock_dcLatch (c : Option Nat) (s : State) : (s.setHostClock c).dcLatch = s.dcLatch := rfl
@[simp] theorem State.setHostClock_settled (c : Option Nat) (s : State) : (s.setHostClock c).settled = s.settled := rfl
@[simp] theorem State.setHostClock_obLowCount (c : Option Nat) (s : State) : (s.setHostClock c).obLowCount = s.obLowCount := rfl
@[simp] theorem State.setHostClock_obLastHighTs (c : Option Nat) (s : State) : (s.setHostClock c).obLastHighTs = s.obLastHighTs := rfl
@[simp] theorem State.setHostClock_obLastEvalTs (c : Option Nat) (s : State) : (s.setHostClock c).obLastEvalTs = s.obLastEvalTs := rfl
@[simp] theorem State.setHostClock_obst (c : Option Nat) (s : State) : (s.setHostClock c).obst = s.obst := rfl
@[simp] theorem State.setHostClock_dcTakePend (c : Option Nat) (s : State) : (s.setHostClock c).dcTakePend = s.dcTakePend := rfl
@[simp] theorem State.setHostClock_obRstPend (c : Option Nat) (s : State) : (s.setHostClock c).obRstPend = s.obRstPend := rfl
@[simp] theorem State.setHostClock_fault (c : Option Nat) (s : State) : (s.setHostClock c).fault = s.fault := rfl
@[simp] theorem State.setHostClock_refused (c : Option Nat) (s : State) : (s.setHostClock c).refused = s.refused := rfl
@[simp] theorem State.setHostClock_out (c : Option Nat) (s : State) : (s.setHostClock c).out = s.out := rfl
@[simp] theorem State.setHostClock_mainResp (c : Option Nat) (s : State) : (s.setHostClock c).mainResp = s.mainResp := rfl
@[simp] theorem State.setHostClock_isrResp (c : Option Nat) (s : State) : (s.setHostClock c).isrResp = s.isrResp := rfl
@[simp] theorem State.setHostClock_mainQ (c : Option Nat) (s : State) : (s.setHostClock c).mainQ = s.mainQ := rfl
@[simp] theorem State.setHostClock_isrQ (c : Option Nat) (s : State) : (s.setHostClock c).isrQ = s.isrQ := rfl
@[simp] theorem State.setHostClock_rstQ (c : Option Nat) (s : State) : (s.setHostClock c).rstQ = s.rstQ := rfl
@[simp] theorem State.setHostClock_rxQ (c : Option Nat) (s : State) : (s.setHostClock c).rxQ = s.rxQ := rfl
@[simp] theorem State.setHostClock_sched (c : Option Nat) (s : State) : (s.setHostClock c).sched = s.sched := rfl
@[simp] theorem State.setHostClock_hostClock (c : Option Nat) (s : State) : (s.setHostClock c).hostClock = c := rfl
@[simp] theorem State.setHostClock_lineBusy (c : Option Nat) (s : State) : (s.setHostClock c).lineBusy = s.lineBusy := rfl
@[simp] theorem State.setHostClock_config (c : Option Nat) (s : State) : (s.setHostClock c).config = s.config := rfl

/-! ### setLineBusy -/

@[simp] theorem State.setLineBusy_ctr (b : Bool) (s : State) : (s.setLineBusy b).ctr = s.ctr := rfl
@[simp] theorem State.setLineBusy_faMode (b : Bool) (s : State) : (s.setLineBusy b).faMode = s.faMode := rfl
@[simp] theorem State.setLineBusy_faShift (b : Bool) (s : State) : (s.setLineBusy b).faShift = s.faShift := rfl
@[simp] theorem State.setLineBusy_faCount (b : Bool) (s : State) : (s.setLineBusy b).faCount = s.faCount := rfl
@[simp] theorem State.setLineBusy_faBuf (b : Bool) (s : State) : (s.setLineBusy b).faBuf = s.faBuf := rfl
@[simp] theorem State.setLineBusy_dcFallTs (b : Bool) (s : State) : (s.setLineBusy b).dcFallTs = s.dcFallTs := rfl
@[simp] theorem State.setLineBusy_dcLatch (b : Bool) (s : State) : (s.setLineBusy b).dcLatch = s.dcLatch := rfl
@[simp] theorem State.setLineBusy_settled (b : Bool) (s : State) : (s.setLineBusy b).settled = s.settled := rfl
@[simp] theorem State.setLineBusy_obLowCount (b : Bool) (s : State) : (s.setLineBusy b).obLowCount = s.obLowCount := rfl
@[simp] theorem State.setLineBusy_obLastHighTs (b : Bool) (s : State) : (s.setLineBusy b).obLastHighTs = s.obLastHighTs := rfl
@[simp] theorem State.setLineBusy_obLastEvalTs (b : Bool) (s : State) : (s.setLineBusy b).obLastEvalTs = s.obLastEvalTs := rfl
@[simp] theorem State.setLineBusy_obst (b : Bool) (s : State) : (s.setLineBusy b).obst = s.obst := rfl
@[simp] theorem State.setLineBusy_dcTakePend (b : Bool) (s : State) : (s.setLineBusy b).dcTakePend = s.dcTakePend := rfl
@[simp] theorem State.setLineBusy_obRstPend (b : Bool) (s : State) : (s.setLineBusy b).obRstPend = s.obRstPend := rfl
@[simp] theorem State.setLineBusy_fault (b : Bool) (s : State) : (s.setLineBusy b).fault = s.fault := rfl
@[simp] theorem State.setLineBusy_refused (b : Bool) (s : State) : (s.setLineBusy b).refused = s.refused := rfl
@[simp] theorem State.setLineBusy_out (b : Bool) (s : State) : (s.setLineBusy b).out = s.out := rfl
@[simp] theorem State.setLineBusy_mainResp (b : Bool) (s : State) : (s.setLineBusy b).mainResp = s.mainResp := rfl
@[simp] theorem State.setLineBusy_isrResp (b : Bool) (s : State) : (s.setLineBusy b).isrResp = s.isrResp := rfl
@[simp] theorem State.setLineBusy_mainQ (b : Bool) (s : State) : (s.setLineBusy b).mainQ = s.mainQ := rfl
@[simp] theorem State.setLineBusy_isrQ (b : Bool) (s : State) : (s.setLineBusy b).isrQ = s.isrQ := rfl
@[simp] theorem State.setLineBusy_rstQ (b : Bool) (s : State) : (s.setLineBusy b).rstQ = s.rstQ := rfl
@[simp] theorem State.setLineBusy_rxQ (b : Bool) (s : State) : (s.setLineBusy b).rxQ = s.rxQ := rfl
@[simp] theorem State.setLineBusy_sched (b : Bool) (s : State) : (s.setLineBusy b).sched = s.sched := rfl
@[simp] theorem State.setLineBusy_hostClock (b : Bool) (s : State) : (s.setLineBusy b).hostClock = s.hostClock := rfl
@[simp] theorem State.setLineBusy_lineBusy (b : Bool) (s : State) : (s.setLineBusy b).lineBusy = b := rfl
@[simp] theorem State.setLineBusy_config (b : Bool) (s : State) : (s.setLineBusy b).config = s.config := rfl

/-! ### deliverMessage -/

@[simp] theorem State.deliverMessage_ctr (m : Message) (s : State) : (s.deliverMessage m).ctr = s.ctr := rfl
@[simp] theorem State.deliverMessage_faMode (m : Message) (s : State) : (s.deliverMessage m).faMode = s.faMode := rfl
@[simp] theorem State.deliverMessage_faShift (m : Message) (s : State) : (s.deliverMessage m).faShift = s.faShift := rfl
@[simp] theorem State.deliverMessage_faCount (m : Message) (s : State) : (s.deliverMessage m).faCount = s.faCount := rfl
@[simp] theorem State.deliverMessage_faBuf (m : Message) (s : State) : (s.deliverMessage m).faBuf = s.faBuf := rfl
@[simp] theorem State.deliverMessage_dcFallTs (m : Message) (s : State) : (s.deliverMessage m).dcFallTs = s.dcFallTs := rfl
@[simp] theorem State.deliverMessage_dcLatch (m : Message) (s : State) : (s.deliverMessage m).dcLatch = s.dcLatch := rfl
@[simp] theorem State.deliverMessage_settled (m : Message) (s : State) : (s.deliverMessage m).settled = s.settled := rfl
@[simp] theorem State.deliverMessage_obLowCount (m : Message) (s : State) : (s.deliverMessage m).obLowCount = s.obLowCount := rfl
@[simp] theorem State.deliverMessage_obLastHighTs (m : Message) (s : State) : (s.deliverMessage m).obLastHighTs = s.obLastHighTs := rfl
@[simp] theorem State.deliverMessage_obLastEvalTs (m : Message) (s : State) : (s.deliverMessage m).obLastEvalTs = s.obLastEvalTs := rfl
@[simp] theorem State.deliverMessage_obst (m : Message) (s : State) : (s.deliverMessage m).obst = s.obst := rfl
@[simp] theorem State.deliverMessage_dcTakePend (m : Message) (s : State) : (s.deliverMessage m).dcTakePend = s.dcTakePend := rfl
@[simp] theorem State.deliverMessage_obRstPend (m : Message) (s : State) : (s.deliverMessage m).obRstPend = s.obRstPend := rfl
@[simp] theorem State.deliverMessage_fault (m : Message) (s : State) : (s.deliverMessage m).fault = s.fault := rfl
@[simp] theorem State.deliverMessage_refused (m : Message) (s : State) : (s.deliverMessage m).refused = s.refused := rfl
@[simp] theorem State.deliverMessage_out (m : Message) (s : State) : (s.deliverMessage m).out = s.out ++ [.rxMsg (rxMsgOf m)] := rfl
@[simp] theorem State.deliverMessage_mainResp (m : Message) (s : State) : (s.deliverMessage m).mainResp = s.mainResp := rfl
@[simp] theorem State.deliverMessage_isrResp (m : Message) (s : State) : (s.deliverMessage m).isrResp = s.isrResp := rfl
@[simp] theorem State.deliverMessage_mainQ (m : Message) (s : State) : (s.deliverMessage m).mainQ = s.mainQ := rfl
@[simp] theorem State.deliverMessage_isrQ (m : Message) (s : State) : (s.deliverMessage m).isrQ = s.isrQ := rfl
@[simp] theorem State.deliverMessage_rstQ (m : Message) (s : State) : (s.deliverMessage m).rstQ = s.rstQ := rfl
@[simp] theorem State.deliverMessage_rxQ (m : Message) (s : State) : (s.deliverMessage m).rxQ = s.rxQ := rfl
@[simp] theorem State.deliverMessage_sched (m : Message) (s : State) : (s.deliverMessage m).sched = s.sched := rfl
@[simp] theorem State.deliverMessage_hostClock (m : Message) (s : State) : (s.deliverMessage m).hostClock = s.hostClock := rfl
@[simp] theorem State.deliverMessage_lineBusy (m : Message) (s : State) : (s.deliverMessage m).lineBusy = s.lineBusy := rfl
@[simp] theorem State.deliverMessage_config (m : Message) (s : State) : (s.deliverMessage m).config = s.config := rfl

/-! ### deliver -/

@[simp] theorem State.deliver_ctr (wc : Config.WireCodec) (fr : Frame) (s : State) : (s.deliver wc fr).ctr = s.ctr := rfl
@[simp] theorem State.deliver_faMode (wc : Config.WireCodec) (fr : Frame) (s : State) : (s.deliver wc fr).faMode = s.faMode := rfl
@[simp] theorem State.deliver_faShift (wc : Config.WireCodec) (fr : Frame) (s : State) : (s.deliver wc fr).faShift = s.faShift := rfl
@[simp] theorem State.deliver_faCount (wc : Config.WireCodec) (fr : Frame) (s : State) : (s.deliver wc fr).faCount = s.faCount := rfl
@[simp] theorem State.deliver_faBuf (wc : Config.WireCodec) (fr : Frame) (s : State) : (s.deliver wc fr).faBuf = s.faBuf := rfl
@[simp] theorem State.deliver_dcFallTs (wc : Config.WireCodec) (fr : Frame) (s : State) : (s.deliver wc fr).dcFallTs = s.dcFallTs := rfl
@[simp] theorem State.deliver_dcLatch (wc : Config.WireCodec) (fr : Frame) (s : State) : (s.deliver wc fr).dcLatch = s.dcLatch := rfl
@[simp] theorem State.deliver_settled (wc : Config.WireCodec) (fr : Frame) (s : State) : (s.deliver wc fr).settled = s.settled := rfl
@[simp] theorem State.deliver_obLowCount (wc : Config.WireCodec) (fr : Frame) (s : State) : (s.deliver wc fr).obLowCount = s.obLowCount := rfl
@[simp] theorem State.deliver_obLastHighTs (wc : Config.WireCodec) (fr : Frame) (s : State) : (s.deliver wc fr).obLastHighTs = s.obLastHighTs := rfl
@[simp] theorem State.deliver_obLastEvalTs (wc : Config.WireCodec) (fr : Frame) (s : State) : (s.deliver wc fr).obLastEvalTs = s.obLastEvalTs := rfl
@[simp] theorem State.deliver_obst (wc : Config.WireCodec) (fr : Frame) (s : State) : (s.deliver wc fr).obst = s.obst := rfl
@[simp] theorem State.deliver_dcTakePend (wc : Config.WireCodec) (fr : Frame) (s : State) : (s.deliver wc fr).dcTakePend = s.dcTakePend := rfl
@[simp] theorem State.deliver_obRstPend (wc : Config.WireCodec) (fr : Frame) (s : State) : (s.deliver wc fr).obRstPend = s.obRstPend := rfl
@[simp] theorem State.deliver_fault (wc : Config.WireCodec) (fr : Frame) (s : State) : (s.deliver wc fr).fault = s.fault := rfl
@[simp] theorem State.deliver_refused (wc : Config.WireCodec) (fr : Frame) (s : State) : (s.deliver wc fr).refused = s.refused := rfl
@[simp] theorem State.deliver_out (wc : Config.WireCodec) (fr : Frame) (s : State) : (s.deliver wc fr).out = s.out ++ [.rxMsg (rxMsgOf (decodedOf wc fr))] := rfl
@[simp] theorem State.deliver_mainResp (wc : Config.WireCodec) (fr : Frame) (s : State) : (s.deliver wc fr).mainResp = s.mainResp := rfl
@[simp] theorem State.deliver_isrResp (wc : Config.WireCodec) (fr : Frame) (s : State) : (s.deliver wc fr).isrResp = s.isrResp := rfl
@[simp] theorem State.deliver_mainQ (wc : Config.WireCodec) (fr : Frame) (s : State) : (s.deliver wc fr).mainQ = s.mainQ := rfl
@[simp] theorem State.deliver_isrQ (wc : Config.WireCodec) (fr : Frame) (s : State) : (s.deliver wc fr).isrQ = s.isrQ := rfl
@[simp] theorem State.deliver_rstQ (wc : Config.WireCodec) (fr : Frame) (s : State) : (s.deliver wc fr).rstQ = s.rstQ := rfl
@[simp] theorem State.deliver_rxQ (wc : Config.WireCodec) (fr : Frame) (s : State) : (s.deliver wc fr).rxQ = s.rxQ := rfl
@[simp] theorem State.deliver_sched (wc : Config.WireCodec) (fr : Frame) (s : State) : (s.deliver wc fr).sched = s.sched := rfl
@[simp] theorem State.deliver_hostClock (wc : Config.WireCodec) (fr : Frame) (s : State) : (s.deliver wc fr).hostClock = s.hostClock := rfl
@[simp] theorem State.deliver_lineBusy (wc : Config.WireCodec) (fr : Frame) (s : State) : (s.deliver wc fr).lineBusy = s.lineBusy := rfl
@[simp] theorem State.deliver_config (wc : Config.WireCodec) (fr : Frame) (s : State) : (s.deliver wc fr).config = s.config := rfl

end Sys2Proof.Machine
end

