-- ==== Sys2Proof/Laws/Ops.lean ====
section
/-! SUPPORT. One lemma for each shared operation that says what it can do, to be cited instead of unfolding it. -/

namespace Sys2Proof.Machine

/-! ### Channel registers -/

@[simp] theorem PerChannel.get_set_same {α : Type} (v : PerChannel α) (ch : Channel) (a : α) :
    (v.set ch a).get ch = a := by
  cases ch <;> rfl

theorem PerChannel.get_set_ne {α : Type} (v : PerChannel α) {ch c : Channel} (h : c ≠ ch) (a : α) :
    (v.set ch a).get c = v.get c := by
  cases ch <;> cases c <;> first | rfl | exact absurd rfl h

@[simp] theorem PerChannel.set_get {α : Type} (v : PerChannel α) (ch : Channel) : v.set ch (v.get ch) = v := by
  cases ch <;> rfl

@[simp] theorem PerChannel.get_all {α : Type} (a : α) (ch : Channel) : (PerChannel.all a).get ch = a := by
  cases ch <;> rfl

@[simp] theorem channelOf_code (ch : Channel) : channelOf ch.code = some ch := by
  cases ch <;> rfl

theorem channelOf_eq_some_iff (b : BitVec 2) (ch : Channel) : channelOf b = some ch ↔ b = ch.code := by
  revert b; cases ch <;> decide

theorem channelOf_eq_none_iff (b : BitVec 2) : channelOf b = none ↔ b = 3#2 := by
  revert b; decide

/-! ### Taking a request -/

theorem quiescent_eq_false_iff (s : State) : s.quiescent = false ↔ s.Live := by
  simp [State.quiescent, State.Live, List.isEmpty_iff]

theorem gate_live {s : State} (h : s.Live) (effect : State → State) : gate effect s = .next (effect s) := by
  simp [gate, (quiescent_eq_false_iff s).2 h]

theorem gate_not_live {s : State} (h : ¬ s.Live) (effect : State → State) : gate effect s = .fault .quiescent := by
  have hq : s.quiescent = true := by
    cases hc : s.quiescent with
    | true => rfl
    | false => exact absurd ((quiescent_eq_false_iff s).1 hc) h
  simp [gate, hq]

/-- Everything an atomic step can do. -/
theorem gate_eq_next_iff (effect : State → State) (s t : State) :
    gate effect s = .next t ↔ s.Live ∧ t = effect s := by
  by_cases h : s.Live
  · rw [gate_live h]
    exact ⟨fun e => ⟨h, (Host.Outcome.next.inj e).symm⟩, fun e => by rw [e.2]⟩
  · simp [gate_not_live h, h]

theorem onPort_same {op : OpField} {p : Port} (h : portOf op = some p) (i : Instr) (effect : State → State)
    (s : State) : onPort op p i effect s = effect s := by
  simp [onPort, h]

theorem onPort_other {op : OpField} {p : Port} (h : portOf op ≠ some p) (i : Instr) (effect : State → State)
    (s : State) : onPort op p i effect s = s.refuse (.wrongPort op p) i := by
  simp [onPort, h]

@[simp] theorem withChannel_code (ch : Channel) (i : Instr) (effect : Channel → State → State) (s : State) :
    withChannel ch.code i effect s = effect ch s := by
  simp [withChannel]

@[simp] theorem withChannel_three (i : Instr) (effect : Channel → State → State) (s : State) :
    withChannel 3#2 i effect s = s.refuse (.badChannel 3#2) i := rfl

/-! ### The op map (30_encoding.md R82) -/

@[simp] theorem portOf_reset : portOf 0x1#4 = some .rst := rfl
@[simp] theorem portOf_ctrLoad : portOf 0x2#4 = some .main := rfl
@[simp] theorem portOf_ctrRead : portOf 0x3#4 = some .main := rfl
@[simp] theorem portOf_enc : portOf 0x4#4 = some .main := rfl
@[simp] theorem portOf_dec : portOf 0x5#4 = some .main := rfl
@[simp] theorem portOf_faByte : portOf 0x6#4 = some .main := rfl
@[simp] theorem portOf_dcEdge : portOf 0x7#4 = some .isr := rfl
@[simp] theorem portOf_dcTake : portOf 0x8#4 = some .main := rfl
@[simp] theorem portOf_obEdge : portOf 0x9#4 = some .isr := rfl
@[simp] theorem portOf_obEval : portOf 0xA#4 = some .main := rfl

/-! ### Flags -/

theorem settledAfter_eq_true_iff (b : Bool) (now : Nat) :
    settledAfter b now = true ↔ b = true ∨ 2000 ≤ now := by
  simp [settledAfter, Config.startupGuardMs]

theorem inPressWindow_iff (e : Nat) : inPressWindow e = true ↔ 500 < e ∧ e < 10000 := by
  simp [inPressWindow, Config.dcMinMs, Config.dcMaxMs]

theorem windowDue_iff (w : Nat) (now last : Nat) : windowDue w now last = true ↔ 50 < elapsed w now last :=
  decide_eq_true_iff

theorem preambleOk_iff (fr : Frame) :
    preambleOk fr = true ↔ fr[0] = 0x55#8 ∧ fr[1] = 0x01#8 ∧ fr[2] = 0x00#8 := by
  simp [preambleOk, Config.preamble0, Config.preamble1, Config.preamble2, and_assoc]

theorem preambleShift_eq : preambleShift = 0x550100#24 := by decide

theorem withDeviceId_eq (f : Fixed) : withDeviceId f = f ||| 0x539#40 := rfl

/-- Everything a classification can be (43_obstruction.md R192). -/
theorem classify_cases (w : Nat) (n : Nat) (level : Bool) (now lastHigh : Nat) :
    (3 ≤ n ∧ n ≤ 8 ∧ classify w n level now lastHigh = .setClear) ∨
    (n = 0 ∧ level = true ∧ 70 < elapsed w now lastHigh ∧ classify w n level now lastHigh = .setObstructed) ∨
    (n = 0 ∧ ¬ (level = true ∧ 70 < elapsed w now lastHigh) ∧ classify w n level now lastHigh = .asleep) ∨
    (n ≠ 0 ∧ ¬ (3 ≤ n ∧ n ≤ 8) ∧ classify w n level now lastHigh = .noClass) := by
  by_cases h1 : 3 ≤ n ∧ n ≤ 8
  · exact .inl ⟨h1.1, h1.2, if_pos h1⟩
  by_cases h2 : n = 0
  · by_cases h3 : level = true ∧ 70 < elapsed w now lastHigh
    · exact .inr (.inl ⟨h2, h3.1, h3.2, (if_neg h1).trans ((if_pos h2).trans (if_pos h3))⟩)
    · exact .inr (.inr (.inl ⟨h2, h3, (if_neg h1).trans ((if_pos h2).trans (if_neg h3))⟩))
  · exact .inr (.inr (.inr ⟨h2, h1, (if_neg h1).trans (if_neg h2)⟩))

theorem classify_setObstructed {w : Nat} {n : Nat} {level : Bool} {now lastHigh : Nat}
    (h : classify w n level now lastHigh = .setObstructed) : n = 0 ∧ level = true ∧ 70 < elapsed w now lastHigh := by
  rcases classify_cases w n level now lastHigh with ⟨-, -, e⟩ | ⟨a, b, c, -⟩ | ⟨-, -, e⟩ | ⟨-, -, e⟩
  · rw [e] at h; cases h
  · exact ⟨a, b, c⟩
  · rw [e] at h; cases h
  · rw [e] at h; cases h

/-! ### The pending second part of a MAIN request (10_state.md R33) -/

theorem pendingTake_of_get {s : State} (hc : s.pendingCount = 1) {ch : Channel} {r : Bool}
    (h : s.dcTakePend.get ch = some r) : s.pendingTake = some (ch, r) := by
  revert hc h
  unfold State.pendingCount State.pendingTake
  rcases s.dcTakePend with ⟨_ | _, _ | _, _ | _⟩ <;> cases s.obRstPend <;> cases ch <;>
    simp [PerChannel.get, firstPending]

theorem pendingTake_of_obRstPend {s : State} (hc : s.pendingCount = 1) {c : WindowClass}
    (h : s.obRstPend = some c) : s.pendingTake = none := by
  revert hc
  unfold State.pendingCount State.pendingTake
  rcases s.dcTakePend with ⟨_ | _, _ | _, _ | _⟩ <;> simp [h, firstPending]

/-! ### Time (00_scope.md R15, 60_exceptions.md R221, R222) -/

/-- Elapsed time is the difference as integers, modulo 2^TIME_W. -/
theorem elapsed_eq (w : Nat) (now t : Nat) : elapsed w now t = (((now : Int) - t) % 2 ^ w).toNat := by
  have hlt : t % 2 ^ w < 2 ^ w := Nat.mod_lt _ (Nat.two_pow_pos w)
  have h : ((elapsed w now t : Nat) : Int) = ((now : Int) - t) % 2 ^ w := by
    rw [elapsed, Int.natCast_mod, Nat.cast_sub (by omega)]
    push_cast
    rw [Int.sub_emod, Int.add_emod_right, Int.emod_emod_of_dvd _ (dvd_refl _), ← Int.sub_emod]
  rw [← h, Int.toNat_natCast]

/-- Of `now` only the TIME_W low bits count. -/
theorem elapsed_mod_left (w : Nat) (now t : Nat) : elapsed w (now % 2 ^ w) t = elapsed w now t := by
  simp only [elapsed_eq, Int.natCast_mod, Nat.cast_pow, Nat.cast_ofNat, Int.emod_sub_emod]

theorem elapsed_lt (w : Nat) (now t : Nat) : elapsed w now t < 2 ^ w := Nat.mod_lt _ (Nat.two_pow_pos w)

/-- The reading the model gives a placed request is lawful: it carries `now` and follows the last reading. -/
theorem clockFor_mod (s : State) (now : Nat) :
    now % 2 ^ s.config.timeW = s.clockFor now % 2 ^ s.config.timeW := by
  unfold State.clockFor
  cases s.hostClock with
  | none => rfl
  | some last =>
    have hlt : last % 2 ^ s.config.timeW < 2 ^ s.config.timeW := Nat.mod_lt _ (Nat.two_pow_pos _)
    simp only [elapsed, Nat.add_mod_mod]
    rw [← Nat.mod_add_mod]
    rw [show last % 2 ^ s.config.timeW + (now + 2 ^ s.config.timeW - last % 2 ^ s.config.timeW) =
      now + 2 ^ s.config.timeW by omega, Nat.add_mod_right]

theorem clockFor_follows (s : State) (now : Nat) :
    clockFollows s.config.timeW (s.clockFor now) s.hostClock = true := by
  unfold State.clockFor
  cases s.hostClock with
  | none => rfl
  | some last => simp [clockFollows, elapsed_lt]

/-! ### Frames (40_codec.md R110, R117) -/

/-- Byte `i` of a frame built by frame_of: the preamble, then the payload (40_codec.md R110). -/
theorem getElem_frameOf (wc : Config.WireCodec) (c : Counter) (f : Fixed) (d : Data) (i : Nat) (h : i < 19) :
    (frameOf wc c f d)[i]'h =
      if h3 : i < 3 then (#v[0x55#8, 0x01#8, 0x00#8] : Vector Byte 3)[i] else (wc.enc c f d)[i - 3]'(by
        change i - 3 < 16; omega) :=
  Vector.getElem_append (xs := (#v[0x55#8, 0x01#8, 0x00#8] : Vector Byte 3)) (ys := wc.enc c f d) h

theorem preambleOk_frameOf (wc : Config.WireCodec) (c : Counter) (f : Fixed) (d : Data) :
    preambleOk (frameOf wc c f d) = true :=
  (preambleOk_iff _).2 ⟨getElem_frameOf wc c f d 0 (by decide), getElem_frameOf wc c f d 1 (by decide),
    getElem_frameOf wc c f d 2 (by decide)⟩

theorem payload_frameOf (wc : Config.WireCodec) (c : Counter) (f : Fixed) (d : Data) :
    payload (frameOf wc c f d) = wc.enc c f d := by
  apply Vector.ext
  intro i hi
  have h : i < 16 := hi
  unfold payload
  rw [Vector.getElem_ofFn]
  have e := getElem_frameOf wc c f d (3 + i) (by omega)
  rw [dif_neg (by omega)] at e
  have e2 : 3 + i - 3 = i := by omega
  simp only [e2] at e
  exact e

end Sys2Proof.Machine
end

