-- ==== Sys2Proof/Laws/PerInstr.lean ====
section
/-! SUPPORT. The per-instruction family OpBits: the word an instruction encodes to carries, in the bits the opcode table
fixes, the number the table gives its row. -/

namespace Sys2Proof.Laws.OpBits

/-- The bits the opcode table reads: a record's op, a message's protocol opcode. -/
def tableBits : Input → Nat
  | .request _ r => r.op.toNat
  | .message m => (protoOpcode m.fixed m.data).toNat

/-- The number of each row in spec/opcode_table.json; OPC_OTHER's row has none. -/
def rowNumber : Instr → Option Nat
  | .reset _ => some 0x1
  | .ctrLoad _ _ _ => some 0x2
  | .ctrRead _ => some 0x3
  | .enc _ _ _ _ => some 0x4
  | .dec _ _ => some 0x5
  | .faByte _ _ => some 0x6
  | .dcEdge _ _ _ _ => some 0x7
  | .dcTake _ _ => some 0x8
  | .obEdge _ _ _ => some 0x9
  | .obEval _ _ _ => some 0xA
  | .reserved0 _ => some 0x0
  | .reservedB _ => some 0xB
  | .reservedC _ => some 0xC
  | .reservedD _ => some 0xD
  | .reservedE _ => some 0xE
  | .reservedF _ => some 0xF
  | .opcStatus _ _ _ _ => some 0x081
  | .opcLightEvt _ _ _ _ => some 0x281
  | .opcIdle _ _ _ _ => some 0x084
  | .opcMotion _ _ _ _ => some 0x285
  | .opcOther _ _ _ => none

/-- The table's number of the row, where it gives one, is in the bits of the instruction's encoding. -/
def Statement (i : Instr) : Prop := ∀ n, rowNumber i = some n → tableBits (encode i) = n

/-- The opcode of a message is the one it was made with (30_encoding.md R91). -/
theorem protoOpcode_messageOf (opc : ProtoOpcode) (c : Counter) (hi : BitVec 4) (lo : BitVec 32) (d : BitVec 24) :
    protoOpcode (messageOf opc c hi lo d).fixed (messageOf opc c hi lo d).data = opc := by
  apply BitVec.eq_of_getLsbD_eq
  intro k hk
  simp only [protoOpcode, messageOf, BitVec.getLsbD_append, BitVec.getLsbD_extractLsb']
  by_cases h8 : k < 8
  · simp [h8]
  · have h1 : k - 8 < 4 := by omega
    have h2 : 8 + (k - 8) = k := by omega
    simp [h8, h1, h2]

theorem of_message {i : Instr} {opc : ProtoOpcode} {c : Counter} {hi : BitVec 4} {lo : BitVec 32} {d : BitVec 24}
    (he : encode i = .message (messageOf opc c hi lo d)) (hr : rowNumber i = some opc.toNat) : Statement i := by
  intro n hn
  rw [he, tableBits, protoOpcode_messageOf]
  exact Option.some.inj (hr.symm.trans hn)

theorem reset (p : Port) : Statement (.reset p) := fun _ h => Option.some.inj h
theorem ctrLoad (p : Port) (b : Bool) (v : BitVec 32) : Statement (.ctrLoad p b v) := fun _ h => Option.some.inj h
theorem ctrRead (p : Port) : Statement (.ctrRead p) := fun _ h => Option.some.inj h
theorem enc (p : Port) (f : Fixed) (d : Data) (h : Bool) : Statement (.enc p f d h) := fun _ e => Option.some.inj e
theorem dec (p : Port) (fr : Frame) : Statement (.dec p fr) := fun _ h => Option.some.inj h
theorem faByte (p : Port) (b : Byte) : Statement (.faByte p b) := fun _ h => Option.some.inj h
theorem dcEdge (p : Port) (ch : BitVec 2) (l : Bool) (t : Nat) : Statement (.dcEdge p ch l t) :=
  fun _ h => Option.some.inj h
theorem dcTake (p : Port) (ch : BitVec 2) : Statement (.dcTake p ch) := fun _ h => Option.some.inj h
theorem obEdge (p : Port) (l : Bool) (t : Nat) : Statement (.obEdge p l t) := fun _ h => Option.some.inj h
theorem obEval (p : Port) (l : Bool) (t : Nat) : Statement (.obEval p l t) := fun _ h => Option.some.inj h
theorem reserved0 (p : Port) : Statement (.reserved0 p) := fun _ h => Option.some.inj h
theorem reservedB (p : Port) : Statement (.reservedB p) := fun _ h => Option.some.inj h
theorem reservedC (p : Port) : Statement (.reservedC p) := fun _ h => Option.some.inj h
theorem reservedD (p : Port) : Statement (.reservedD p) := fun _ h => Option.some.inj h
theorem reservedE (p : Port) : Statement (.reservedE p) := fun _ h => Option.some.inj h
theorem reservedF (p : Port) : Statement (.reservedF p) := fun _ h => Option.some.inj h
theorem opcStatus (c : Counter) (hi : BitVec 4) (lo : BitVec 32) (d : BitVec 24) :
    Statement (.opcStatus c hi lo d) := of_message rfl rfl
theorem opcLightEvt (c : Counter) (hi : BitVec 4) (lo : BitVec 32) (d : BitVec 24) :
    Statement (.opcLightEvt c hi lo d) := of_message rfl rfl
theorem opcIdle (c : Counter) (hi : BitVec 4) (lo : BitVec 32) (d : BitVec 24) :
    Statement (.opcIdle c hi lo d) := of_message rfl rfl
theorem opcMotion (c : Counter) (hi : BitVec 4) (lo : BitVec 32) (d : BitVec 24) :
    Statement (.opcMotion c hi lo d) := of_message rfl rfl
theorem opcOther (c : Counter) (f : Fixed) (d : Data) : Statement (.opcOther c f d) :=
  fun _ h => nomatch h

end Sys2Proof.Laws.OpBits
end

