-- ==== Sys2Proof/Laws/Step.lean ====
section
/-! SUPPORT. What exec and step can do, said once: every meaning is one gated effect, and a step is a request taken, a
second part finished, or nothing to do. -/

namespace Sys2Proof.Machine

/-- The effect of each instruction, without the gate. -/
def effectOf : Instr → State → State
  | .reset p => onPort 0x1#4 p (.reset p) State.resetRegs
  | .ctrLoad p b v => onPort 0x2#4 p (.ctrLoad p b v) (ctrLoadEffect b v)
  | .ctrRead p => onPort 0x3#4 p (.ctrRead p) ctrReadEffect
  | .enc p f d h => onPort 0x4#4 p (.enc p f d h) (encEffect Config.wireCodec f d h)
  | .dec p fr => onPort 0x5#4 p (.dec p fr) (decEffect Config.wireCodec fr)
  | .faByte p b => onPort 0x6#4 p (.faByte p b) (faByteEffect Config.wireCodec b)
  | .dcEdge p ch l n => onPort 0x7#4 p (.dcEdge p ch l n) (withChannel ch (.dcEdge p ch l n) fun c => withTime n (dcEdgeEffect l c))
  | .dcTake p ch => onPort 0x8#4 p (.dcTake p ch) (withChannel ch (.dcTake p ch) dcTakeRead)
  | .obEdge p l n => onPort 0x9#4 p (.obEdge p l n) (withTime n (obEdgeEffect l))
  | .obEval p l n => onPort 0xA#4 p (.obEval p l n) (withTime n (obEvalEffect l))
  | .reserved0 p => refuseReserved 0x0#4 (.reserved0 p)
  | .reservedB p => refuseReserved 0xB#4 (.reservedB p)
  | .reservedC p => refuseReserved 0xC#4 (.reservedC p)
  | .reservedD p => refuseReserved 0xD#4 (.reservedD p)
  | .reservedE p => refuseReserved 0xE#4 (.reservedE p)
  | .reservedF p => refuseReserved 0xF#4 (.reservedF p)
  | .opcStatus c hi lo d => State.deliverMessage (messageOf Config.opcStatus c hi lo d)
  | .opcLightEvt c hi lo d => State.deliverMessage (messageOf Config.opcLightEvt c hi lo d)
  | .opcIdle c hi lo d => State.deliverMessage (messageOf Config.opcIdle c hi lo d)
  | .opcMotion c hi lo d => State.deliverMessage (messageOf Config.opcMotion c hi lo d)
  | .opcOther c f d => State.deliverMessage { ctr := c, fixed := f, data := d }

theorem exec_eq_gate (i : Instr) (s : State) : exec i s = gate (effectOf i) s := by
  cases i <;> rfl

/-- Everything exec can do: it runs the instruction's effect exactly when the block is not quiescent. -/
theorem exec_eq_next_iff (i : Instr) (s t : State) : exec i s = .next t ↔ s.Live ∧ t = effectOf i s := by
  rw [exec_eq_gate, gate_eq_next_iff]

/-- Everything a performed action can do. -/
theorem perform_eq_next_iff (a : Action) (s t : State) :
    perform (a, s) = .next t ↔ s.Live ∧
      match a with
      | .take i => t = effectOf i s
      | .finishTake ch r => t = dcTakeFinish ch r s
      | .finishEval c => t = obEvalFinish c s
      | .idle => t = s
      | .noMove _ => False := by
  cases a with
  | noMove why => simp only [perform, noMove]; split <;> simp
  | _ => simp [perform, exec_eq_next_iff, gate_eq_next_iff]

theorem step_eq_next_iff (s t : State) : step s = .next t ↔ perform (fetch s) = .next t := Iff.rfl

/-! ### fetch uses up its place in the schedule and its request, nothing else -/

/-- The registers, marks and outputs of the state fetch leaves are those it was given. -/
structure SameMachine (s t : State) : Prop where
  ctr : t.ctr = s.ctr
  faMode : t.faMode = s.faMode
  faShift : t.faShift = s.faShift
  faCount : t.faCount = s.faCount
  faBuf : t.faBuf = s.faBuf
  dcFallTs : t.dcFallTs = s.dcFallTs
  dcLatch : t.dcLatch = s.dcLatch
  settled : t.settled = s.settled
  obLowCount : t.obLowCount = s.obLowCount
  obLastHighTs : t.obLastHighTs = s.obLastHighTs
  obLastEvalTs : t.obLastEvalTs = s.obLastEvalTs
  obst : t.obst = s.obst
  dcTakePend : t.dcTakePend = s.dcTakePend
  obRstPend : t.obRstPend = s.obRstPend
  fault : t.fault = s.fault
  refused : t.refused = s.refused
  out : t.out = s.out
  mainResp : t.mainResp = s.mainResp
  isrResp : t.isrResp = s.isrResp
  config : t.config = s.config

/-- The host's carriers, and nothing else: schedule, queues, clock, transmitter. -/
def State.withHost (s : State) (main isr rst : List Issued) (rx : List Message) (sched : List Source)
    (clock : Option Nat) (busy : Bool) : State :=
  { s with mainQ := main, isrQ := isr, rstQ := rst, rxQ := rx, sched := sched, hostClock := clock, lineBusy := busy }

theorem SameMachine.withHost (s : State) (main isr rst : List Issued) (rx : List Message) (sched : List Source)
    (clock : Option Nat) (busy : Bool) : SameMachine s (s.withHost main isr rst rx sched clock busy) := by
  constructor <;> rfl

theorem State.tick_eq (i : Instr) (clock : Nat) (s : State) :
    s.tick i clock = s.setHostClock (if i.timestamp.isSome then some clock else s.hostClock) := by
  unfold State.tick
  cases i.timestamp <;> rfl

/-- Everything taking an issued instruction can do. -/
theorem takeAt_cases (i : Instr) (clock : Nat) (s : State) :
    (s.timeLawful i clock = true ∧ takeAt i clock s = (.take i, s.tick i clock)) ∨
      (s.timeLawful i clock = false ∧ takeAt i clock s = (.noMove .hostBrokeTime, s)) := by
  unfold takeAt
  cases s.timeLawful i clock <;> simp

/-- What taking the head of a queue leaves: that queue and the schedule one shorter, the host's clock at the head's
reading if it has a time. -/
def State.taken (s : State) (i : Instr) (clock : Nat) (main isr rst : List Issued) : State :=
  s.withHost main isr rst s.rxQ s.sched.tail (if i.timestamp.isSome then some clock else s.hostClock) s.lineBusy

theorem SameMachine.taken (s : State) (i : Instr) (clock : Nat) (main isr rst : List Issued) :
    SameMachine s (s.taken i clock main isr rst) := .withHost ..

/-- Everything fetch can do: which atomic step is next, and that only the host's carriers are used up. -/
theorem fetch_cases (s : State) :
    (∃ x q, s.nextSource = .main ∧ s.pendingTake = none ∧ s.obRstPend = none ∧ s.mainQ = x :: q ∧
      s.timeLawful (decodeRequest .main x.record) x.clock = true ∧
      fetch s = (.take (decodeRequest .main x.record),
        s.taken (decodeRequest .main x.record) x.clock q s.isrQ s.rstQ)) ∨
    (∃ x q, s.nextSource = .isr ∧ s.isrQ = x :: q ∧
      s.timeLawful (decodeRequest .isr x.record) x.clock = true ∧
      fetch s = (.take (decodeRequest .isr x.record),
        s.taken (decodeRequest .isr x.record) x.clock s.mainQ q s.rstQ)) ∨
    (∃ x q, s.nextSource = .rst ∧ s.rstQ = x :: q ∧
      s.timeLawful (decodeRequest .rst x.record) x.clock = true ∧
      fetch s = (.take (decodeRequest .rst x.record),
        s.taken (decodeRequest .rst x.record) x.clock s.mainQ s.isrQ q)) ∨
    (∃ m q, s.nextSource = .delivery ∧ s.rxQ = m :: q ∧ fetch s = (.take (decodeMessage m), s.advance.setRxQ q)) ∨
    (∃ ch r, s.nextSource = .main ∧ s.pendingTake = some (ch, r) ∧ fetch s = (.finishTake ch r, s.advance)) ∨
    (∃ c, s.nextSource = .main ∧ s.pendingTake = none ∧ s.obRstPend = some c ∧
      fetch s = (.finishEval c, s.advance)) ∨
    (∃ b, fetch s = (.idle, s.advance.setLineBusy b)) ∨
    (∃ why u, SameMachine s u ∧ fetch s = (.noMove why, u)) := by
  unfold fetch
  cases hn : s.nextSource with
  | main =>
    simp only [fetchMain, State.pendingTake, State.advance_dcTakePend, State.advance_obRstPend, State.advance_mainQ,
      decode]
    cases firstPending s.dcTakePend with
    | some y => exact .inr (.inr (.inr (.inr (.inl ⟨y.1, y.2, trivial, rfl, rfl⟩))))
    | none =>
      cases s.obRstPend with
      | some c => exact .inr (.inr (.inr (.inr (.inr (.inl ⟨c, trivial, rfl, rfl, rfl⟩)))))
      | none =>
        cases s.mainQ with
        | nil => exact .inr (.inr (.inr (.inr (.inr (.inr (.inl ⟨s.lineBusy, rfl⟩))))))
        | cons x q =>
          rcases takeAt_cases (decodeRequest .main x.record) x.clock (s.advance.setMainQ q) with ⟨h, e⟩ | ⟨h, e⟩
          · exact .inl ⟨x, q, trivial, rfl, rfl, rfl, h, e.trans (by rw [State.tick_eq]; rfl)⟩
          · exact .inr (.inr (.inr (.inr (.inr (.inr (.inr ⟨_, _, by constructor <;> rfl, e⟩))))))
  | isr =>
    simp only [fetchIsr, State.advance_isrQ, decode]
    cases s.isrQ with
    | nil => exact .inr (.inr (.inr (.inr (.inr (.inr (.inl ⟨s.lineBusy, rfl⟩))))))
    | cons x q =>
      rcases takeAt_cases (decodeRequest .isr x.record) x.clock (s.advance.setIsrQ q) with ⟨h, e⟩ | ⟨h, e⟩
      · exact .inr (.inl ⟨x, q, trivial, rfl, h, e.trans (by rw [State.tick_eq]; rfl)⟩)
      · exact .inr (.inr (.inr (.inr (.inr (.inr (.inr ⟨_, _, by constructor <;> rfl, e⟩))))))
  | rst =>
    simp only [fetchRst, State.advance_rstQ, decode]
    cases s.rstQ with
    | nil => exact .inr (.inr (.inr (.inr (.inr (.inr (.inl ⟨s.lineBusy, rfl⟩))))))
    | cons x q =>
      rcases takeAt_cases (decodeRequest .rst x.record) x.clock (s.advance.setRstQ q) with ⟨h, e⟩ | ⟨h, e⟩
      · exact .inr (.inr (.inl ⟨x, q, trivial, rfl, h, e.trans (by rw [State.tick_eq]; rfl)⟩))
      · exact .inr (.inr (.inr (.inr (.inr (.inr (.inr ⟨_, _, by constructor <;> rfl, e⟩))))))
  | delivery =>
    simp only [fetchDelivery, State.advance_rxQ, decode]
    cases s.rxQ with
    | nil => exact .inr (.inr (.inr (.inr (.inr (.inr (.inl ⟨s.lineBusy, rfl⟩))))))
    | cons m q => exact .inr (.inr (.inr (.inl ⟨m, q, trivial, rfl, rfl⟩)))
  | lineStart =>
    simp only [fetchLineStart]
    split
    · exact .inr (.inr (.inr (.inr (.inr (.inr (.inr ⟨_, _, by constructor <;> rfl, rfl⟩))))))
    · exact .inr (.inr (.inr (.inr (.inr (.inr (.inl ⟨true, rfl⟩))))))
  | lineEnd => exact .inr (.inr (.inr (.inr (.inr (.inr (.inl ⟨false, rfl⟩))))))

/-! ### What a step can do -/

theorem protoOpcode_of_cls {m : Message} :
    (cls (protoOpcode m.fixed m.data) = .status → protoOpcode m.fixed m.data = Config.opcStatus) ∧
    (cls (protoOpcode m.fixed m.data) = .lightEvt → protoOpcode m.fixed m.data = Config.opcLightEvt) ∧
    (cls (protoOpcode m.fixed m.data) = .idle → protoOpcode m.fixed m.data = Config.opcIdle) ∧
    (cls (protoOpcode m.fixed m.data) = .motion → protoOpcode m.fixed m.data = Config.opcMotion) := by
  refine ⟨?_, ?_, ?_, ?_⟩ <;> simp only [cls] <;> split_ifs <;> simp_all

/-- A message is the one made of its opcode and its other bits (30_encoding.md R91). -/
theorem messageOf_fields (m : Message) :
    messageOf (protoOpcode m.fixed m.data) m.ctr (m.fixed.extractLsb' 36 4) (m.fixed.extractLsb' 0 32)
      (m.data.extractLsb' 8 24) = m := by
  obtain ⟨c, f, d⟩ := m
  simp only [messageOf, protoOpcode, Message.mk.injEq, true_and]
  constructor
  · apply BitVec.eq_of_getLsbD_eq
    intro k hk
    change k < 40 at hk
    simp only [BitVec.getLsbD_append, BitVec.getLsbD_extractLsb']
    by_cases h : k < 32
    · simp [h]
    by_cases h2 : k < 36
    · have h3 : k - 32 < 4 := by omega
      have h4 : 32 + (k - 32) = k := by omega
      simp [h, h3, h4]
    · have h3 : ¬ k - 32 < 4 := by omega
      have h4 : 36 + (k - 32 - 4) = k := by omega
      have h5 : k - 32 - 4 < 4 := by omega
      simp [h, h3, h4, h5]
  · apply BitVec.eq_of_getLsbD_eq
    intro k hk
    change k < 32 at hk
    simp only [BitVec.getLsbD_append, BitVec.getLsbD_extractLsb']
    by_cases h : k < 8
    · simp [h]
    · have h3 : 8 + (k - 8) = k := by omega
      have h4 : k - 8 < 24 := by omega
      simp [h, h3, h4]

/-- Whatever its class, a message's instruction delivers that message (40_codec.md R118). -/
theorem effectOf_decodeMessage (m : Message) (s : State) : effectOf (decodeMessage m) s = s.deliverMessage m := by
  have hm := messageOf_fields m
  obtain ⟨h1, h2, h3, h4⟩ := @protoOpcode_of_cls m
  simp only [decodeMessage]
  split <;> rename_i e
  · rw [h1 e] at hm; simp only [effectOf, hm]
  · rw [h2 e] at hm; simp only [effectOf, hm]
  · rw [h3 e] at hm; simp only [effectOf, hm]
  · rw [h4 e] at hm; simp only [effectOf, hm]
  · rfl

/-- Everything a step that answers a next state can have done: taken the request at the head of a queue, delivered a
message, finished the pending request, or nothing but the host's business. -/
theorem step_cases {s t : State} (h : step s = .next t) :
    s.Live ∧ ∃ u, SameMachine s u ∧ (s.rxQ = [] → u.rxQ = []) ∧
      ((∃ x q, s.nextSource = .main ∧ s.pendingTake = none ∧ s.obRstPend = none ∧ s.mainQ = x :: q ∧
          t = effectOf (decodeRequest .main x.record) u) ∨
        (∃ x q, s.nextSource = .isr ∧ s.isrQ = x :: q ∧ t = effectOf (decodeRequest .isr x.record) u) ∨
        (∃ x q, s.nextSource = .rst ∧ s.rstQ = x :: q ∧ t = effectOf (decodeRequest .rst x.record) u) ∨
        (∃ m q, s.nextSource = .delivery ∧ s.rxQ = m :: q ∧ t = u.deliverMessage m) ∨
        (∃ ch r, s.nextSource = .main ∧ s.pendingTake = some (ch, r) ∧ t = dcTakeFinish ch r u) ∨
        (∃ c, s.nextSource = .main ∧ s.pendingTake = none ∧ s.obRstPend = some c ∧ t = obEvalFinish c u) ∨
        t = u) := by
  have live : ∀ v : State, SameMachine s v → v.Live → s.Live := fun v hv hl => ⟨hv.fault ▸ hl.1, hv.refused ▸ hl.2⟩
  have adv : SameMachine s s.advance := by constructor <;> rfl
  rw [step_eq_next_iff] at h
  rcases fetch_cases s with ⟨x, q, a, b, c, d, -, e⟩ | ⟨x, q, a, b, -, e⟩ | ⟨x, q, a, b, -, e⟩ | ⟨m, q, a, b, e⟩ |
    ⟨ch, r, a, b, e⟩ | ⟨w, a, b, c, e⟩ | ⟨b, e⟩ | ⟨w, u, a, e⟩ <;> rw [e, perform_eq_next_iff] at h
  · exact ⟨live _ (.taken ..) h.1, s.taken _ x.clock q s.isrQ s.rstQ, .taken .., id, .inl ⟨x, q, a, b, c, d, h.2⟩⟩
  · exact ⟨live _ (.taken ..) h.1, s.taken _ x.clock s.mainQ q s.rstQ, .taken .., id, .inr (.inl ⟨x, q, a, b, h.2⟩)⟩
  · exact ⟨live _ (.taken ..) h.1, s.taken _ x.clock s.mainQ s.isrQ q, .taken .., id, .inr (.inr (.inl ⟨x, q, a, b, h.2⟩))⟩
  · have adv2 : SameMachine s (s.advance.setRxQ q) := by constructor <;> rfl
    exact ⟨live _ adv2 h.1, _, adv2, fun hr => by simp [hr] at b,
      .inr (.inr (.inr (.inl ⟨m, q, a, b, h.2.trans (effectOf_decodeMessage m _)⟩)))⟩
  · exact ⟨live _ adv h.1, _, adv, id, .inr (.inr (.inr (.inr (.inl ⟨ch, r, a, b, h.2⟩))))⟩
  · exact ⟨live _ adv h.1, _, adv, id, .inr (.inr (.inr (.inr (.inr (.inl ⟨w, a, b, c, h.2⟩)))))⟩
  · have adv2 : SameMachine s (s.advance.setLineBusy b) := by constructor <;> rfl
    exact ⟨live _ adv2 h.1, _, adv2, id, .inr (.inr (.inr (.inr (.inr (.inr h.2)))))⟩
  · exact h.2.elim

/-! ### Placing an input -/

/-- The reading a placed request gets keeps the host's duty on time. -/
theorem timeLawful_clockFor (s : State) (i : Instr) (now : Nat) (h : ∀ n, i.timestamp = some n → n = now) :
    s.timeLawful i (s.clockFor now) = true := by
  unfold State.timeLawful
  cases ht : i.timestamp with
  | none => rfl
  | some n => simp only [h n ht, clockFor_follows, Bool.and_true, decide_eq_true_eq]; exact clockFor_mod s now

theorem timestamp_decodeRequest (p : Port) (r : Record) (n : Nat)
    (h : (decodeRequest p r).timestamp = some n) : n = r.now := by
  revert h
  unfold decodeRequest
  split <;> simp [Instr.timestamp] <;> exact fun h => h.symm

/-- The very next step takes a placed input, on the state it was placed in, MAIN having nothing else in progress and the
host's clock at the reading the request carries. -/
theorem step_place (inp : Input) (s : State) :
    step (s.place inp) = exec (decode inp)
      (match inp with
        | .request .main r =>
            { s with dcTakePend := .all none, obRstPend := none }.tick (decodeRequest .main r) (s.clockFor r.now)
        | .request .isr r => s.tick (decodeRequest .isr r) (s.clockFor r.now)
        | .request .rst r => s.tick (decodeRequest .rst r) (s.clockFor r.now)
        | .message _ => s) := by
  have take : ∀ (p : Port) (r : Record) (u : State), u.hostClock = s.hostClock → u.config = s.config →
      perform (takeAt (decodeRequest p r) (s.clockFor r.now) u) =
        exec (decodeRequest p r) (u.tick (decodeRequest p r) (s.clockFor r.now)) := by
    intro p r u hc hp
    have hl : u.timeLawful (decodeRequest p r) (s.clockFor r.now) = true := by
      have e : u.clockFor r.now = s.clockFor r.now := by simp only [State.clockFor, hc, hp]
      rw [← e]
      exact timeLawful_clockFor u _ _ (timestamp_decodeRequest p r)
    simp only [takeAt, hl, if_true, perform]
  cases inp with
  | message m => rfl
  | request p r =>
    cases p with
    | main => exact take .main r { s with dcTakePend := .all none, obRstPend := none } rfl rfl
    | isr => exact take .isr r s rfl rfl
    | rst => exact take .rst r s rfl rfl

end Sys2Proof.Machine
end

