-- ==== Sys2Proof/Tests/Slice0.lean ====
section
/-! SUPPORT. Tests and witnesses. The expected values are those of 95_test_vectors.md (named V-…) or are read from the
rule a comment cites; a witness shows a state and operands that meet the premises of an obligation. -/

open Sys2Proof Sys2Proof.Machine

namespace Sys2Proof.Tests

/-! ## Helpers -/

/-- The next state of an answer. -/
def nextOf : Result → Option State
  | .next t => some t
  | .fault _ => none
  | .refused _ => none

/-- A field of the state an instruction leaves. -/
def after {α : Type} (i : Instr) (s : State) (f : State → α) : Option α := (nextOf (exec i s)).map f

/-- A field of the state a step leaves. -/
def stepped {α : Type} (s : State) (f : State → α) : Option α := (nextOf (step s)).map f

/-- Reset, with the guard over. -/
def settledState : State := { State.reset with settled := true }

/-- Reset, with a falling edge of OPEN recorded at 3000. -/
def fallen : State := { settledState with dcFallTs := ⟨3000, 0, 0⟩ }

/-- Reset, with a low-pulse count and a last high sample. -/
def window (n : Nat) (lastHigh : Nat) (o : Obstruction) : State :=
  { State.reset with obLowCount := n, obLastHighTs := lastHigh, obst := o }

/-- Capturing, with the preamble and `n` as the count. -/
def capturing (n : BitVec 5) : State :=
  { State.reset with
    faMode := .capturing, faCount := n, faShift := 0x550100
    faBuf := ((((Vector.replicate 19 0 : Frame).set 0 0x55).set 1 0x01).set 2 0x00) }

/-- A frame with a given third byte. -/
def frameWith (b : Byte) : Frame := #v[0x55, 0x01, b, 1, 2, 3, 4, 5, 6, 7, 8, 9, 10, 11, 12, 13, 14, 15, 16]

/-- Refused once. -/
def refusedState : State := { State.reset with refused := [(.reservedOp 0x0, .reserved0 .main)] }

/-- A DC_TAKE of CLOSE between its two parts, with a request waiting on MAIN. -/
def takePending : State :=
  { settledState with dcTakePend := ⟨none, some true, none⟩, mainQ := [⟨blankRecord 0x3#4, 0⟩] }

/-- Reset, but for the parameters of R9. -/
def withConfig (c : Config.Params) : State := { State.reset with config := c }

/-- The parameters with 16-bit widths. -/
def narrow : Config.Params := { Config.defaults with timeW := 16, lowCountW := 16 }

/-- A state whose last timestamped request was issued at `last`, with an OB_EDGE next, issued at `clock`. -/
def edgeAt (last clock now : Nat) : State :=
  { State.reset with
    hostClock := some last, sched := [.isr], isrQ := [⟨{ blankRecord 0x9#4 with now := now }, clock⟩] }

/-! ## Well-formedness: an ill-formed term for each check -/

theorem test_wellFormed_port :
    (Instr.reset .main).wellFormed = false ∧ (Instr.ctrLoad .isr true 0).wellFormed = false ∧
    (Instr.ctrRead .rst).wellFormed = false ∧ (Instr.enc .isr 0 0 false).wellFormed = false ∧
    (Instr.dec .rst (frameWith 0)).wellFormed = false ∧ (Instr.faByte .isr 0).wellFormed = false ∧
    (Instr.dcEdge .main 0 true 0).wellFormed = false ∧ (Instr.dcTake .isr 0).wellFormed = false ∧
    (Instr.obEdge .main true 0).wellFormed = false ∧ (Instr.obEval .isr true 0).wellFormed = false := by decide

theorem test_wellFormed_channel :
    (Instr.dcEdge .isr 3 true 0).wellFormed = false ∧ (Instr.dcTake .main 3).wellFormed = false ∧
    (Instr.dcEdge .isr 2 true 0).wellFormed = true ∧ (Instr.dcTake .main 2).wellFormed = true := by decide

theorem test_wellFormed_reserved :
    (Instr.reserved0 .main).wellFormed = false ∧ (Instr.reservedB .isr).wellFormed = false ∧
    (Instr.reservedC .rst).wellFormed = false ∧ (Instr.reservedD .main).wellFormed = false ∧
    (Instr.reservedE .main).wellFormed = false ∧ (Instr.reservedF .main).wellFormed = false := by decide

theorem test_wellFormed_other :
    (Instr.opcOther 0 0x0000000539 0x00000081).wellFormed = false ∧
    (Instr.opcOther 0 0x0100000539 0x0000008C).wellFormed = true := by decide

/-! ## Decoding of words written out from 30_encoding.md R82, R91, R93 -/

theorem test_decode_reset : decodeTableWord 8 0x01 = some (.reset .rst) := by decide
theorem test_decode_ctrLoad : decodeTableWord 8 0x02 = some (.ctrLoad .main false 0) := by decide
theorem test_decode_ctrRead : decodeTableWord 8 0x03 = some (.ctrRead .main) := by decide
theorem test_decode_enc : decodeTableWord 8 0x84 = some (.enc .main 0 0 true) := by decide
theorem test_decode_dec : decodeTableWord 8 0x05 = some (.dec .main (Vector.replicate 19 0)) := by decide
theorem test_decode_faByte : decodeTableWord 8 0x06 = some (.faByte .main 0) := by decide
theorem test_decode_dcEdge : decodeTableWord 8 0x57 = some (.dcEdge .isr 1 true 0) := by decide
theorem test_decode_dcTake : decodeTableWord 8 0x28 = some (.dcTake .main 2) := by decide
theorem test_decode_obEdge : decodeTableWord 8 0x49 = some (.obEdge .isr true 0) := by decide
theorem test_decode_obEval : decodeTableWord 8 0x0A = some (.obEval .main false 0) := by decide

theorem test_decode_reserved :
    decodeTableWord 8 0x00 = some (.reserved0 .main) ∧ decodeTableWord 8 0x0B = some (.reservedB .main) ∧
    decodeTableWord 8 0x0C = some (.reservedC .main) ∧ decodeTableWord 8 0x0D = some (.reservedD .main) ∧
    decodeTableWord 8 0x0E = some (.reservedE .main) ∧ decodeTableWord 8 0x0F = some (.reservedF .main) := by decide

theorem test_decode_protocol :
    decodeTableWord 16 0x0081 = some (.opcStatus 0 0 0 0) ∧ decodeTableWord 16 0x0281 = some (.opcLightEvt 0 0 0 0) ∧
    decodeTableWord 16 0x0084 = some (.opcIdle 0 0 0 0) ∧ decodeTableWord 16 0x0285 = some (.opcMotion 0 0 0 0) ∧
    decodeTableWord 16 0x018C = some (.opcOther 0 0x0100000000 0x0000008C) := by decide

/-- A whole record byte by byte (log entry 11): ENC fixed=0x0200000539 data=0x01000085 hold=1. -/
theorem test_decode_record :
    decodeBytes 32 .main
      ([0x84, 0, 0, 0x39, 0x05, 0x00, 0x00, 0x02, 0x85, 0x00, 0x00, 0x01, 0, 0, 0, 0] ++ List.replicate 19 0 ++
        [0, 0, 0, 0]) =
      .ok (.enc .main 0x0200000539 0x01000085 true) := rfl

/-- OB_EDGE at now = 0x1234 with a 12-bit time input: of the last two bytes twelve bits count. -/
theorem test_decode_narrow :
    decodeBytes 12 .isr ([0x49] ++ List.replicate 34 0 ++ [0x34, 0x12]) = .ok (.obEdge .isr true 0x234) := rfl

/-- A record one byte short is rejected by name. -/
theorem test_decode_short : decodeBytes 32 .main (List.replicate 38 0) = .error (.notOneRecord 38) := rfl

/-- Opcode, class, door, light and lock of a decoded pair. -/
def fields (f : Fixed) (d : Data) : ProtoOpcode × MsgClass × BitVec 4 × BitVec 1 × BitVec 1 :=
  let m := rxMsgOf ⟨0, f, d⟩
  (m.opc, m.cls, m.door, m.light, m.lock)

/-- V-OP2, V-OP3, V-OP7, V-OP9, V-OP12. -/
theorem test_status_fields :
    fields 0x0000000539 0x02000181 = (0x081, .status, 1, 1, 0) ∧
    fields 0x0000000539 0x01000481 = (0x081, .status, 4, 0, 1) ∧
    fields 0x1200000000 0x00000081 = (0x281, .lightEvt, 0, 0, 0) ∧
    fields 0x0F00000000 0xFFFFFF81 = (0xF81, .other, 0xF, 1, 1) ∧
    fields 0x0100000539 0x0000008C = (0x18C, .other, 0, 0, 0) := ⟨rfl, rfl, rfl, rfl, rfl⟩

/-- The numeric codes of 10_state.md R22, R32 and 60_exceptions.md R212, and one channel name for each of R7's three. -/
theorem test_codes :
    FaMode.capturing.code = 1 ∧ Obstruction.obstructed.code = 2 ∧ (FaultMark.counterLoadRange 0).code = 1 ∧
    [Channel.openContact.code, Channel.closeContact.code, Channel.lightContact.code] = [0, 1, 2] ∧
    [Channel.openContact, .closeContact, .lightContact].length = Config.dcChannels := by decide

/-! ## RESET, codec -/

/-- V-RS1. -/
theorem test_reset_drops_capture :
    after (.reset .rst) (capturing 10) (fun t => (t.faMode, t.faCount, t.faShift, t.out)) =
      some (.scanning, 0, 0, []) := by decide

/-- V-CL1, V-CL2. -/
theorem test_ctrLoad :
    after (.ctrLoad .main false 0x12345678) { State.reset with ctr := 77 } (fun t => (t.ctr, t.mainResp)) =
      some (0, [.ok]) ∧
    after (.ctrLoad .main true 0x0FFFFFFF) State.reset (fun t => (t.ctr, t.mainResp)) = some (0x0FFFFFFF, [.ok]) := by
  decide

/-- V-CL3, V-FT1. -/
theorem test_ctrLoad_range :
    after (.ctrLoad .main true 0x10000000) State.reset (fun t => (t.ctr, t.mainResp, t.fault)) =
      some (0, [], [.counterLoadRange 0x10000000]) := by decide

/-- V-CR1. -/
theorem test_ctrRead :
    after (.ctrRead .main) { State.reset with ctr := 0x0ABCDEF } (fun t => (t.ctr, t.mainResp)) =
      some (0x0ABCDEF, [.counter 0x00ABCDEF]) := by decide

/-- V-EN5: the device id is OR-ed in. -/
theorem test_enc_device_id :
    after (.enc .main 0xC6 0 false) State.reset (fun t => (t.ctr, t.out)) =
      some (1, [.txFrame (frameOf Config.wireCodec 0 0x5FF 0)]) := rfl

/-- V-EN2, V-EN3: the wrap, and hold. -/
theorem test_enc_counter :
    after (.enc .main 0 0 false) { State.reset with ctr := 0x0FFFFFFF } (·.ctr) = some 0 ∧
    after (.enc .main 0 0 true) { State.reset with ctr := 9 } (·.ctr) = some 9 := ⟨rfl, rfl⟩

/-- V-DE4, V-DE6. -/
theorem test_dec :
    after (.dec .main (frameWith 0x01)) State.reset (fun t => (t.mainResp, t.out)) = some ([.discard], []) ∧
    after (.dec .main (frameWith 0x00)) State.reset (fun t => (t.mainResp, t.out.length)) = some ([.accept], 1) :=
  ⟨rfl, rfl⟩

/-! ## Frame assembler -/

/-- V-FA2, V-FA3. -/
theorem test_faByte_scan :
    after (.faByte .main 0x01) { State.reset with faShift := 0x000055 } (fun t => (t.faShift, t.mainResp)) =
      some (0x005501, [.scan]) ∧
    after (.faByte .main 0x00) { State.reset with faShift := 0x555501 } (fun t => (t.faMode, t.faCount, t.mainResp)) =
      some (.capturing, 3, [.sync]) := by decide

/-- V-FA5, V-FA6: the count goes to 18, and the nineteenth byte completes the frame. -/
theorem test_faByte_capture :
    after (.faByte .main 7) (capturing 17) (fun t => (t.faCount, t.faBuf[17], t.mainResp)) = some (18, 7, [.stored]) ∧
    after (.faByte .main 7) (capturing 18) (fun t => (t.faMode, t.faCount, t.faBuf[18], t.mainResp, t.out.length)) =
      some (.scanning, 0, 7, [.frameDone], 1) := ⟨rfl, rfl⟩

/-! ## Contacts -/

/-- V-DC1, V-DC2, V-DC3, V-DC4: both bounds of the press window are exclusive. -/
theorem test_dcEdge_window :
    after (.dcEdge .isr 0 true 3500) fallen (·.isrResp) = some [.reject] ∧
    after (.dcEdge .isr 0 true 3501) fallen (fun t => (t.dcLatch, t.isrResp)) = some (⟨true, false, false⟩, [.latch]) ∧
    after (.dcEdge .isr 0 true 12999) fallen (·.isrResp) = some [.latch] ∧
    after (.dcEdge .isr 0 true 13000) fallen (·.isrResp) = some [.reject] := by decide

/-- V-DC5, V-DC6, V-DC10: the guard's end, and a clock wrap. -/
theorem test_dcEdge_guard :
    after (.dcEdge .isr 0 false 1999) State.reset (fun t => (t.dcFallTs, t.settled, t.isrResp)) =
      some (⟨0, 0, 0⟩, false, [.guarded]) ∧
    after (.dcEdge .isr 0 false 2000) State.reset (fun t => (t.dcFallTs, t.settled, t.isrResp)) =
      some (⟨2000, 0, 0⟩, true, [.fall]) ∧
    after (.dcEdge .isr 0 true 0x100) { settledState with dcFallTs := ⟨0xFFFFFF00, 0, 0⟩ } (·.isrResp) =
      some [.latch] := by decide

/-- V-DT3, V-DT4: a latch between the parts of DC_TAKE is lost under ALWAYS and kept under IF_SET. -/
theorem test_dcTake_split :
    stepped { settledState with dcTakePend := ⟨none, some false, none⟩, dcLatch := ⟨false, true, false⟩ }
      (fun t => (t.dcLatch, t.dcTakePend, t.mainResp)) =
      some (⟨false, false, false⟩, ⟨none, none, none⟩, [.taken false]) ∧
    stepped
      { settledState with
        dcTakePend := ⟨none, some false, none⟩, dcLatch := ⟨false, true, false⟩
        config := { Config.defaults with clearPolicy := .ifSet } }
      (fun t => (t.dcLatch, t.mainResp)) = some (⟨false, true, false⟩, [.taken false]) := by decide

/-- V-DT1, part 1: the read leaves the latch and keeps the bit. -/
theorem test_dcTake_read :
    after (.dcTake .main 1) { settledState with dcLatch := ⟨false, true, false⟩ }
      (fun t => (t.dcTakePend, t.dcLatch, t.mainResp)) =
      some (⟨none, some true, none⟩, ⟨false, true, false⟩, []) := by decide

/-! ## Obstruction -/

/-- V-OB13, V-OB14. -/
theorem test_obEdge :
    after (.obEdge .isr false 5) (window 2 0 .unknown) (fun t => (t.obLowCount, t.settled, t.isrResp)) =
      some (3, false, [.low]) ∧
    after (.obEdge .isr true 2500) State.reset (fun t => (t.obLastHighTs, t.settled, t.isrResp)) =
      some (2500, true, [.high]) := by decide

/-- V-OB1, V-OB2, V-OB5, V-OB6, V-OB7, V-OB9, V-OB10, up to the split point. -/
theorem test_obEval :
    after (.obEval .main true 50) State.reset (fun t => (t.obRstPend, t.mainResp)) = some (none, [.notDue]) ∧
    after (.obEval .main true 51) State.reset (fun t => (t.obRstPend, t.obLastEvalTs)) = some (some .asleep, 51) ∧
    after (.obEval .main true 60) (window 8 0 .unknown) (·.obst) = some .clear ∧
    after (.obEval .main true 60) (window 2 0 .obstructed) (fun t => (t.obRstPend, t.obst)) =
      some (some .noClass, .obstructed) ∧
    after (.obEval .main true 60) (window 9 0 .clear) (fun t => (t.obRstPend, t.obst)) =
      some (some .noClass, .clear) ∧
    after (.obEval .main true 200) (window 0 130 .clear) (·.obst) = some .clear ∧
    after (.obEval .main true 200) (window 0 129 .clear) (·.obst) = some .obstructed := by decide

/-- R9: at 16 bits a clock wrap and a count wrap come at 2^16, not at 2^32. -/
theorem test_narrow_widths :
    after (.dcEdge .isr 0 true 0x100) { withConfig narrow with settled := true, dcFallTs := ⟨0xFF00, 0, 0⟩ }
      (·.isrResp) = some [.latch] ∧
    after (.obEdge .isr false 5) { withConfig narrow with obLowCount := 0xFFFF } (·.obLowCount) = some 0 ∧
    after (.obEdge .isr false 5) (window 0xFFFF 0 .unknown) (·.obLowCount) = some 0x10000 := by decide

/-- V-OB11: at part 2 the count is zeroed, the sixth fall with it. -/
theorem test_obEval_split :
    stepped { window 6 0 .clear with obRstPend := some .setClear } (fun t => (t.obLowCount, t.obRstPend, t.mainResp)) =
      some (0, none, [.window .setClear]) := by decide

/-! ## Refusals: V-RF2, V-RF4, V-RF5, V-RF6, V-RF7 -/

theorem test_refused :
    after (.reservedB .isr) State.reset (·.refused) = some [(.reservedOp 0xB, .reservedB .isr)] ∧
    after (.dcEdge .main 0 false 3000) State.reset (·.refused) =
      some [(.wrongPort 0x7 .main, .dcEdge .main 0 false 3000)] ∧
    after (.dcTake .main 3) State.reset (·.refused) = some [(.badChannel 3, .dcTake .main 3)] ∧
    after (.dcTake .isr 3) State.reset (·.refused) = some [(.wrongPort 0x8 .isr, .dcTake .isr 3)] ∧
    after (.reset .main) State.reset (·.refused) = some [(.wrongPort 0x1 .main, .reset .main)] := by decide

theorem test_quiescent : step refusedState = .fault .quiescent ∧ exec (.reset .rst) refusedState = .fault .quiescent :=
  ⟨rfl, rfl⟩

/-! ## Steps, placed words, pseudo-requests -/

/-- R222, R242: time that decreases, and a gap of 2^TIME_W ms, have no move; one wrap is lawful, and RESET restarts the
clock. -/
theorem test_host_time :
    step (edgeAt 3000 2999 2999) = .fault .hostBrokeTime ∧
    step (edgeAt 3000 3001 7) = .fault .hostBrokeTime ∧
    step (edgeAt 5 0x100000005 5) = .fault .hostBrokeTime ∧
    stepped (edgeAt 0xFFFFFF00 0x100000100 0x100) (fun t => (t.hostClock, t.isrResp)) =
      some (some 0x100000100, [.low]) ∧
    stepped (edgeAt 3000 3000 3000) (·.hostClock) = some (some 3000) ∧
    after (.reset .rst) (edgeAt 3000 0 0) (·.hostClock) = some none := ⟨rfl, rfl, rfl, rfl, rfl, rfl⟩

/-- R248, R242: a transmit that starts during another has no move; one after another do. -/
theorem test_host_transmit :
    step { State.reset with sched := [.lineStart], lineBusy := true } = .fault .hostOverlappedTransmits ∧
    stepped { State.reset with sched := [.lineStart] } (·.lineBusy) = some true ∧
    stepped { State.reset with sched := [.lineEnd], lineBusy := true } (·.lineBusy) = some false :=
  ⟨rfl, rfl, rfl⟩

/-- Each kind of table row runs as the first step after reset. -/
theorem test_withFetchWord :
    stepped (State.reset.withFetchWord 8 0x02) (·.mainResp) = some [.ok] ∧
    stepped (State.reset.withFetchWord 8 0x09) (·.isrResp) = some [.low] ∧
    stepped (State.reset.withFetchWord 8 0x01) (·.refused) = some [] ∧
    stepped (State.reset.withFetchWord 8 0x0D) (·.refused) = some [(.reservedOp 0xD, .reservedD .main)] ∧
    stepped (State.reset.withFetchWord 16 0x0285) (fun t => t.out.length) = some 1 := by decide

/-- V-OP6 through a placed message. -/
theorem test_opcMotion :
    after (.opcMotion 3 0 0x539 0) State.reset (·.out) =
      some [.rxMsg ⟨3, 0x0200000539, 0x00000085, 0x285, .motion, 0, 0, 0⟩] := by decide

/-- R94. -/
theorem test_pseudo :
    Pseudo.dcPoll.expand = [.dcTake .main 0, .dcTake .main 1, .dcTake .main 2] ∧
    (Pseudo.doorToggle 1 2 3 4).expand = [.enc .main 1 2 true, .enc .main 3 4 false] ∧
    (Pseudo.loadCtr none).expand = [.ctrLoad .main false 0] ∧
    (Pseudo.faFeed [5, 6]).expand = [.faByte .main 5, .faByte .main 6] ∧
    ((State.reset.issuePseudo .dcPoll).mainQ.map (decode <| .request .main ·.record)) = Pseudo.dcPoll.expand := by decide

/-! ## A codec that meets the premises CODEC_RT and CODEC_CTRDEP, so that claims under them are about something -/

theorem length_leBytes (n w : Nat) : (leBytes n w).length = n := by
  induction n generalizing w with
  | zero => rfl
  | succ n ih => simp [leBytes, ih]

theorem leNat_leBytes (n w : Nat) : leNat (leBytes n w) = w % 256 ^ n := by
  induction n generalizing w with
  | zero => simp [leBytes, leNat, Nat.mod_one]
  | succ n ih =>
    have e : (BitVec.ofNat 8 w).toNat = w % 256 := BitVec.toNat_ofNat w 8
    rw [leBytes, leNat, ih, e, pow_succ', Nat.mod_mul]

theorem getElem_leBytes (n w i : Nat) (h : i < (leBytes n w).length) :
    (leBytes n w)[i] = BitVec.ofNat 8 (w / 256 ^ i) := by
  induction n generalizing w i with
  | zero => simp [leBytes] at h
  | succ n ih =>
    cases i with
    | zero => simp [leBytes]
    | succ i => simp only [leBytes, List.getElem_cons_succ, ih]; rw [pow_succ', Nat.div_div_eq_div_mul]

/-- The three fields one after another, the counter lowest. -/
def packed (c : Counter) (f : Fixed) (d : Data) : Nat :=
  c.toNat + 268435456 * (f.toNat + 1099511627776 * d.toNat)

/-- Packing without any transform: not the real codec, only one that meets the premises. -/
def toyCodec : Config.WireCodec where
  enc c f d := ⟨(leBytes 16 (packed c f d)).toArray, by simp [length_leBytes]⟩
  dec p :=
    (BitVec.ofNat 28 (leNat p.toList), BitVec.ofNat 40 (leNat p.toList / 268435456),
      BitVec.ofNat 32 (leNat p.toList / 268435456 / 1099511627776))

theorem toyCodec_roundTrip : Config.CodecRT toyCodec := by
  intro c f d
  have hc : c.toNat < 268435456 := c.isLt
  have hf : f.toNat < 1099511627776 := f.isLt
  have hd : d.toNat < 4294967296 := d.isLt
  have e : leNat (toyCodec.enc c f d).toList = packed c f d := by
    have h : packed c f d < 256 ^ 16 := by simp only [packed]; omega
    exact (leNat_leBytes 16 _).trans (Nat.mod_eq_of_lt h)
  have h1 : packed c f d % 268435456 = c.toNat := by simp only [packed]; omega
  have h2 : packed c f d / 268435456 = f.toNat + 1099511627776 * d.toNat := by simp only [packed]; omega
  have h3 : (f.toNat + 1099511627776 * d.toNat) / 1099511627776 = d.toNat := by omega
  have h4 : (f.toNat + 1099511627776 * d.toNat) % 1099511627776 = f.toNat := by omega
  show (BitVec.ofNat 28 _, BitVec.ofNat 40 _, BitVec.ofNat 32 _) = _
  rw [e, h2, h3]
  refine Prod.ext ?_ (Prod.ext ?_ ?_) <;> apply BitVec.eq_of_toNat_eq
  · exact h1
  · exact h4
  · exact Nat.mod_eq_of_lt hd

theorem toyCodec_ctrDep : Config.CodecCtrDep toyCodec [0, 1, 2, 3] := by
  intro c c' f d i hi
  have key : ∀ c : Counter, packed c f d / 256 ^ i.val =
      ((f.toNat + 1099511627776 * d.toNat) / 16) / 256 ^ (i.val - 4) := by
    intro c
    have hc : c.toNat < 268435456 := c.isLt
    have h4 : 4 ≤ i.val := by
      by_contra h
      have hv : i.val = 0 ∨ i.val = 1 ∨ i.val = 2 ∨ i.val = 3 := by omega
      apply hi
      rcases hv with h | h | h | h <;> simp [Fin.ext_iff, h] <;> decide
    have e : (256 : Nat) ^ i.val = 4294967296 * 256 ^ (i.val - 4) := by
      rw [show (4294967296 : Nat) = 256 ^ 4 from rfl, ← pow_add]
      congr 1
      omega
    rw [e, ← Nat.div_div_eq_div_mul]
    congr 1
    simp only [packed]
    omega
  have get : ∀ c : Counter, (toyCodec.enc c f d)[i] = BitVec.ofNat 8 (packed c f d / 256 ^ i.val) :=
    fun c => getElem_leBytes 16 _ _ _
  rw [get, get, key, key]

/-! ## Witnesses: a state and operands that meet the premises of each obligation that has any -/

theorem witness_DecodeInvertsEncode :
    (Instr.opcOther 0 0x0100000539 0x0000008C).encodable = true ∧ (Instr.enc .isr 1 2 true).encodable = true ∧
    (Instr.opcStatus 1 0xF 7 9).encodable = true := by decide

theorem witness_ByteDecodeInvertsByteEncode :
    (Instr.dcEdge .isr 3 true 0xFFFFFFFF).encodable = true ∧
    (∀ now, (Instr.dcEdge .isr 3 true 0xFFFFFFFF).timestamp = some now → now < 2 ^ 32) ∧
    Spec.opAndPort (.dcEdge .isr 3 true 0xFFFFFFFF) = some (0x7, .isr) ∧
    (Instr.opcIdle 1 0xF 7 9).encodable = true ∧ Spec.opAndPort (.opcIdle 1 0xF 7 9) = none :=
  ⟨rfl, fun _ h => by cases h; decide, rfl, rfl, rfl⟩

theorem witness_ResetGivesTheResetState : (capturing 18).Live := by decide
theorem witness_CtrLoadResult :
    State.reset.Live ∧ (0x0FFFFFFF#32).toNat < 2 ^ 28 ∧ 2 ^ 28 ≤ (0x10000000#32).toNat := by decide
theorem witness_CtrReadResult : { State.reset with ctr := 0x0FFFFFFF }.Live := by decide
theorem witness_EncResult : { State.reset with ctr := 0x0FFFFFFF }.Live := by decide
theorem witness_DecResult : State.reset.Live ∧ (frameWith 0)[2] = 0x00#8 ∧ (frameWith 1)[2] ≠ 0x00#8 := by decide

theorem witness_FaByteScanningResult :
    State.reset.Live ∧ State.reset.faMode = .scanning ∧
    ((0x005501#24 <<< 8) ||| (0x00#8).setWidth 24 = 0x550100#24) ∧
    ¬ ((0x005501#24 <<< 8) ||| (0x01#8).setWidth 24 = 0x550100#24) := by decide

theorem witness_FaByteCapturingResult :
    ((capturing 3).Live ∧ (capturing 3).faMode = .capturing ∧ (capturing 3).faCount.toNat = 3) ∧
    ((capturing 17).Live ∧ (capturing 17).faMode = .capturing ∧ (capturing 17).faCount.toNat = 17) ∧
    ((capturing 18).Live ∧ (capturing 18).faMode = .capturing ∧ (capturing 18).faCount.toNat = 18) := by decide

/-- The guard's last millisecond; then elapsed times 500, 501, 9999 and 10000. -/
theorem witness_DcEdgeResult :
    State.reset.Live ∧ (State.reset.settled = false ∧ Spec.seen State.reset 1999 < 2000) ∧
    ¬ (Spec.seen State.reset 2000 < 2000) ∧
    fallen.Live ∧ fallen.settled = true ∧ Spec.since fallen 3500 (fallen.dcFallTs.get .openContact) = 500 ∧
    Spec.since fallen 3501 (fallen.dcFallTs.get .openContact) = 501 ∧
    Spec.since fallen 12999 (fallen.dcFallTs.get .openContact) = 9999 ∧
    Spec.since fallen 13000 (fallen.dcFallTs.get .openContact) = 10000 := by decide

theorem witness_DcTakeResult : fallen.Live ∧ Spec.NonePending fallen ∧ fallen.nextSource = .main := by decide
theorem witness_ObEdgeResult : (window 0xFFFFFFFF 0 .unknown).Live := by decide
theorem witness_ObEvalNotDueResult : State.reset.Live ∧ Spec.since State.reset 50 State.reset.obLastEvalTs ≤ 50 := by decide

/-- The gate at 51, then every case of the classification at its bounds. -/
theorem witness_ObEvalGatedResult :
    (window 3 0 .clear).Live ∧ Spec.NonePending (window 3 0 .clear) ∧ (window 3 0 .clear).nextSource = .main ∧
    50 < Spec.since (window 3 0 .clear) 51 (window 3 0 .clear).obLastEvalTs ∧
    (3 ≤ (window 3 0 .clear).obLowCount ∧ (window 8 0 .clear).obLowCount ≤ 8) ∧
    ((window 0 129 .clear).obLowCount = 0 ∧
      70 < Spec.since (window 0 129 .clear) 200 (window 0 129 .clear).obLastHighTs) ∧
    ¬ (70 < Spec.since (window 0 130 .clear) 200 (window 0 130 .clear).obLastHighTs) ∧
    (window 1 0 .clear).obLowCount = 1 ∧ (window 2 0 .clear).obLowCount = 2 ∧
    9 ≤ (window 9 0 .clear).obLowCount := by decide

theorem witness_ProtocolRowsDeliver : State.reset.Live := by decide

theorem witness_DecRunsTheOpcodeRowOfItsMessage :
    State.reset.Live ∧ (frameWith 0)[0] = 0x55#8 ∧ (frameWith 0)[1] = 0x01#8 ∧ (frameWith 0)[2] = 0x00#8 := by decide

theorem witness_ReservedOpsAreRefused : fallen.Live := by decide

theorem witness_WrongPortIsRefused :
    State.reset.Live ∧ Spec.opAndPort (.enc .isr 0 0 false) = some (0x4, .isr) ∧
    Spec.namedPort 0x4 = some .main ∧ Port.isr ≠ Port.main := by decide

theorem witness_BadChannelIsRefused : settledState.Live := by decide
theorem witness_ChecksAreInOrder : State.reset.Live ∧ Port.rst ≠ Port.main ∧ Port.rst ≠ Port.isr := by decide

theorem witness_QuiescentAfterFaultOrRefusal :
    refusedState.refused ≠ [] ∧ { State.reset with fault := [.counterLoadRange 0x10000000] }.fault ≠ [] := by decide

theorem witness_MarkedRequestsWriteNothingElse :
    (∃ t, exec (.dcTake .main 3) State.reset = .next t ∧ t.refused ≠ State.reset.refused) ∧
    (∃ t, exec (.ctrLoad .main true 0x10000000) State.reset = .next t ∧ t.fault ≠ State.reset.fault) :=
  ⟨⟨_, rfl, by decide⟩, ⟨_, rfl, by decide⟩⟩

theorem witness_RefusedExactlyWhenIllFormed : State.reset.Live ∧ Spec.opAndPort (.ctrRead .isr) ≠ none := by decide

theorem timeKept_of_none {s : State} {i : Instr} (h : i.timestamp = none) (clock : Nat) :
    Spec.TimeKept s i clock := fun now hn => by rw [h] at hn; cases hn

/-- A queue's head with its duty on time kept and broken, and the transmitter idle and busy. -/
theorem witness_StepRunsTheDecodedInstruction :
    (let s := State.reset.issue .main ⟨blankRecord 0x3#4, 0⟩
     s.nextSource = .main ∧ Spec.NonePending s ∧ s.mainQ = [⟨blankRecord 0x3#4, 0⟩] ∧
      Spec.TimeKept s (.ctrRead .main) 0) ∧
    ((edgeAt 3000 3001 3001).nextSource = .isr ∧ (∃ x, (edgeAt 3000 3001 3001).isrQ = [x]) ∧
      Spec.TimeKept (edgeAt 3000 3001 3001) (.obEdge .isr false 3001) 3001) ∧
    ((edgeAt 3000 2999 2999).Live ∧ ¬ Spec.TimeKept (edgeAt 3000 2999 2999) (.obEdge .isr false 2999) 2999) ∧
    (let s := State.reset.place (.request .rst (blankRecord 0x1#4))
     s.nextSource = .rst ∧ s.rstQ = [⟨blankRecord 0x1#4, 0⟩] ∧ Spec.TimeKept s (.reset .rst) 0) ∧
    (let s := State.reset.place (.message ⟨0, 0, 0⟩)
     s.nextSource = .delivery ∧ s.rxQ = [⟨0, 0, 0⟩]) ∧
    (let s := { State.reset with sched := [.lineStart] }
     s.nextSource = .lineStart ∧ s.Live ∧ s.lineBusy = false) ∧
    (let s := { State.reset with sched := [.lineStart], lineBusy := true }
     s.nextSource = .lineStart ∧ s.Live ∧ s.lineBusy = true) ∧
    (let s := { State.reset with sched := [.lineEnd], lineBusy := true }
     s.nextSource = .lineEnd ∧ s.Live) := by
  refine ⟨⟨rfl, ⟨rfl, rfl⟩, rfl, timeKept_of_none rfl 0⟩, ⟨rfl, ⟨_, rfl⟩, ?_⟩, ⟨⟨rfl, rfl⟩, fun h => ?_⟩,
    ⟨rfl, rfl, timeKept_of_none rfl 0⟩, ⟨rfl, rfl⟩, ⟨rfl, ⟨rfl, rfl⟩, rfl⟩, ⟨rfl, ⟨rfl, rfl⟩, rfl⟩, rfl, rfl, rfl⟩
  · intro now hn
    cases hn
    refine ⟨rfl, fun last hl => ?_⟩
    cases hl
    decide
  · exact absurd ((h 2999 rfl).2 3000 rfl).1 (by decide)

theorem witness_PlacedWordRunsNext : (0 < 16 ∧ 15 < 16) := by decide

/-- The second state is that after an ISR step at the split: the latch is not what part 1 read. -/
theorem witness_MainFinishesBeforeItTakes :
    (takePending.Live ∧ takePending.nextSource = .main ∧ takePending.pendingCount = 1 ∧
      takePending.dcTakePend.get .closeContact = some true ∧ takePending.dcLatch.get .closeContact = false) ∧
    (let s := { State.reset with obRstPend := some .asleep }
     s.Live ∧ s.nextSource = .main ∧ s.pendingCount = 1 ∧ s.obRstPend = some .asleep) :=
  ⟨by decide, ⟨rfl, rfl⟩, rfl, rfl, rfl⟩

/-- Elapsed times 501 and 9999. -/
theorem witness_ContactEventLostAtTheSplit :
    fallen.Live ∧ Spec.NonePending fallen ∧ fallen.settled = true ∧
    500 < Spec.since fallen 3501 (fallen.dcFallTs.get .openContact) ∧
    Spec.since fallen 12999 (fallen.dcFallTs.get .openContact) < 10000 := by decide

theorem witness_PulseLostAtTheSplit :
    (window 5 0 .unknown).Live ∧ Spec.NonePending (window 5 0 .unknown) ∧
    50 < Spec.since (window 5 0 .unknown) 51 (window 5 0 .unknown).obLastEvalTs := by decide

theorem witness_CodecRequestsLeaveOtherUnits :
    (∃ t, exec (.ctrRead .main) fallen = .next t) ∧ (∃ t, exec (.enc .main 0 0 true) fallen = .next t) :=
  ⟨⟨_, rfl⟩, ⟨_, rfl⟩⟩

theorem witness_FaByteLeavesOtherUnits : ∃ t, exec (.faByte .main 0) (capturing 18) = .next t := ⟨_, rfl⟩

theorem witness_SensorRequestsLeaveOtherUnits :
    (∃ t, exec (.dcEdge .isr 0 true 3501) fallen = .next t) ∧
    (∃ t, exec (.obEval .main true 51) (window 5 0 .unknown) = .next t) ∧
    (takePending.nextSource = .main ∧ takePending.pendingCount = 1 ∧
      takePending.dcTakePend.get .closeContact = some true ∧ ∃ t, step takePending = .next t) ∧
    (let s := { window 5 0 .unknown with obRstPend := some .setClear }
     s.nextSource = .main ∧ s.pendingCount = 1 ∧ s.obRstPend = some .setClear ∧ ∃ t, step s = .next t) :=
  ⟨⟨_, rfl⟩, ⟨_, rfl⟩, ⟨rfl, rfl, rfl, _, rfl⟩, rfl, rfl, rfl, _, rfl⟩

theorem witness_AgentsWriteOnlyTheirOwn :
    (Spec.opAndPort (.dcEdge .isr 0 true 3501) = some (0x7, .isr) ∧
      ∃ t, exec (.dcEdge .isr 0 true 3501) fallen = .next t) ∧
    (Spec.opAndPort (.dcTake .main 0) = some (0x8, .main) ∧ ∃ t, exec (.dcTake .main 0) fallen = .next t) ∧
    ((edgeAt 3000 3001 3001).nextSource = .isr ∧ ∃ t, step (edgeAt 3000 3001 3001) = .next t) ∧
    (takePending.nextSource = .main ∧ ∃ t, step takePending = .next t) :=
  ⟨⟨rfl, _, rfl⟩, ⟨rfl, _, rfl⟩, ⟨rfl, _, rfl⟩, rfl, _, rfl⟩

theorem witness_ChannelsAreIndependent :
    let s' := { fallen with dcLatch := ⟨false, true, true⟩, ctr := 5 }
    fallen.dcFallTs.get .openContact = s'.dcFallTs.get .openContact ∧
    fallen.dcLatch.get .openContact = s'.dcLatch.get .openContact ∧ fallen.settled = s'.settled ∧
    fallen.config = s'.config ∧
    (∃ t, exec (.dcEdge .isr Channel.openContact.code true 3501) fallen = .next t) ∧
    ∃ t', exec (.dcEdge .isr Channel.openContact.code true 3501) s' = .next t' :=
  ⟨rfl, rfl, rfl, rfl, ⟨_, rfl⟩, ⟨_, rfl⟩⟩

theorem witness_OneResponsePerRequest :
    (Spec.opAndPort (.obEdge .isr true 1) = some (0x9, .isr) ∧ (Instr.obEdge .isr true 1).wellFormed = true ∧
      Spec.NonePending fallen ∧ ∃ t, exec (.obEdge .isr true 1) fallen = .next t) ∧
    (Spec.opAndPort (.ctrLoad .main true 0x10000000) = some (0x2, .main) ∧
      (Instr.ctrLoad .main true 0x10000000).wellFormed = true ∧
      ∃ t, exec (.ctrLoad .main true 0x10000000) fallen = .next t) ∧
    (Spec.opAndPort (.reset .rst) = some (0x1, .rst) ∧ (Instr.reset .rst).wellFormed = true ∧
      ∃ t, exec (.reset .rst) fallen = .next t) :=
  ⟨⟨rfl, rfl, ⟨rfl, rfl⟩, _, rfl⟩, ⟨rfl, rfl, _, rfl⟩, ⟨rfl, rfl, _, rfl⟩⟩

theorem witness_ObstHasOneWriter :
    (∃ t, step ((window 8 0 .unknown).place (encode (.obEval .main true 51))) = .next t ∧ t.obst ≠ .unknown) ∧
    (∃ t, step ((window 8 0 .clear).place (encode (.reset .rst))) = .next t ∧ t.obst ≠ .clear) :=
  ⟨⟨_, rfl, by decide⟩, ⟨_, rfl, by decide⟩⟩

theorem witness_OnlyResetClearsSettled :
    ∃ t, step (settledState.place (encode (.reset .rst))) = .next t ∧ settledState.settled = true ∧
      t.settled = false := ⟨_, rfl, rfl, rfl⟩

theorem witness_CtrHasThreeWriters :
    (∃ t, step (State.reset.place (encode (.enc .main 0 0 false))) = .next t ∧ t.ctr ≠ State.reset.ctr) ∧
    (∃ t, step (State.reset.place (encode (.ctrLoad .main true 5))) = .next t ∧ t.ctr ≠ State.reset.ctr) :=
  ⟨⟨_, rfl, by decide⟩, ⟨_, rfl, by decide⟩⟩

theorem witness_LogsOnlyGrow :
    ∃ t, step (State.reset.place (encode (.enc .main 0 0 false))) = .next t ∧ t.out.length = 1 ∧
      State.reset.rxQ = [] := ⟨_, rfl, rfl, rfl⟩

theorem witness_StepKeepsFaInvariant :
    ((capturing 18).FaInv ∧ (capturing 18).WidthInv) ∧ ∃ t, step ((capturing 18).place (encode (.faByte .main 9))) = .next t :=
  ⟨by decide, _, rfl⟩

theorem witness_StepKeepsShiftInvariant :
    (capturing 18).ShiftInv ∧ ∃ t, step ((capturing 18).place (encode (.faByte .main 9))) = .next t :=
  ⟨by decide, _, rfl⟩

theorem witness_StepKeepsOneMainRequest : takePending.PendInv ∧ ∃ t, step takePending = .next t := ⟨by decide, _, rfl⟩

theorem witness_StepKeepsGuardInvariant :
    State.reset.GuardInv ∧ ∃ t, step (State.reset.place (encode (.dcEdge .isr 0 false 1999))) = .next t :=
  ⟨by decide, _, rfl⟩

theorem witness_StepKeepsMarkInvariant :
    State.reset.MarkInv ∧ ∃ t, step (State.reset.place (encode (.dcTake .main 3))) = .next t := ⟨by decide, _, rfl⟩

theorem witness_CounterLaw : { State.reset with ctr := 0x0FFFFFFF }.Live := by decide
theorem witness_EncThenDecRoundTrips : Config.CodecRT toyCodec := toyCodec_roundTrip
theorem witness_DoorTogglePairSharesItsCounter : Config.CodecRT toyCodec := toyCodec_roundTrip

/-- Frame byte 18 is outside the four bytes that depend on the counter. -/
theorem witness_FramesDifferOnlyInCounterBytes :
    Config.CodecCtrDep toyCodec [0, 1, 2, 3] ∧
      ∀ k ∈ ([0, 1, 2, 3] : List (Fin 16)), (18 : Fin 19).val ≠ 3 + k.val :=
  ⟨toyCodec_ctrDep, by decide⟩

theorem witness_NineteenBytesMakeOneFrame :
    ([0x55, 0x01, 0x00] ++ (List.replicate 16 0x55 : List Byte)).toArray.size = 19 ∧ State.reset.Live ∧
    State.reset.faMode = .scanning := by decide

theorem witness_ShiftClearIsUnobservable : State.reset.Live ∧ State.reset.faMode = .scanning := by decide

theorem witness_ScanningUntilThePreamble :
    State.reset.Live ∧ State.reset.faMode = .scanning ∧ State.reset.faShift = 0 := by decide

theorem witness_DebounceLaw :
    fallen.Live ∧ fallen.settled = true ∧ fallen.dcLatch.get .openContact = false ∧ 501 < 2 ^ fallen.config.timeW := by
  decide

theorem witness_EdgesInTheGuardAreIgnored :
    State.reset.Live ∧ State.reset.settled = false ∧
    ∀ x ∈ ([(.openContact, false, 1000), (.lightContact, true, 1999)] : List (Channel × Bool × Nat)),
      x.2.2 < 2000 := by decide

/-- 5 falls; 71 ms since the last high; 50 ms since the last high. -/
theorem witness_ObstructionLaws :
    (50 < Spec.since (window 5 0 .unknown) 60 (window 5 0 .unknown).obLastEvalTs ∧
      (window 5 0 .unknown).obLowCount = 5 ∧
      ∃ t, exec (.obEval .main true 60) (window 5 0 .unknown) = .next t) ∧
    (70 < Spec.since (window 0 129 .clear) 200 (window 0 129 .clear).obLastHighTs ∧
      ∃ t, exec (.obEval .main true 200) (window 0 129 .clear) = .next t) ∧
    (Spec.since (window 0 150 .clear) 200 (window 0 150 .clear).obLastHighTs = 50 ∧
      ∃ t, exec (.obEval .main true 200) (window 0 150 .clear) = .next t) :=
  ⟨⟨by decide, rfl, _, rfl⟩, ⟨by decide, _, rfl⟩, ⟨by decide, _, rfl⟩⟩

theorem witness_ObstructedNeedsNoPulses :
    ∃ t, step ((window 0 129 .clear).place (encode (.obEval .main true 200))) = .next t ∧
      (window 0 129 .clear).obst ≠ .obstructed ∧ t.obst = .obstructed := ⟨_, rfl, by decide, rfl⟩

end Sys2Proof.Tests
end

/-! SUPPORT. The family 30_encoding.md: which fields the decoder reads (R83), the protocol opcode (R91), and when a
request is refused (R84 to R86). -/

namespace Sys2Proof.Machine

/-! ### The decoder reads the fields R83 lists, and no others -/

theorem bit_inj (b c : BitVec 1) : bit b = bit c ↔ b = c := by
  revert b c; decide

theorem opField_cases (op : OpField) :
    op = 0x0#4 ∨ op = 0x1#4 ∨ op = 0x2#4 ∨ op = 0x3#4 ∨ op = 0x4#4 ∨ op = 0x5#4 ∨ op = 0x6#4 ∨ op = 0x7#4 ∨
      op = 0x8#4 ∨ op = 0x9#4 ∨ op = 0xA#4 ∨ op = 0xB#4 ∨ op = 0xC#4 ∨ op = 0xD#4 ∨ op = 0xE#4 ∨ op = 0xF#4 := by
  revert op; decide

/-- Every record is a request, of its own op and on the port it came on (30_encoding.md R82). -/
theorem opAndPort_decodeRequest (p : Port) (r : Record) : Spec.opAndPort (decodeRequest p r) = some (r.op, p) := by
  unfold decodeRequest
  rcases opField_cases r.op with h | h | h | h | h | h | h | h | h | h | h | h | h | h | h | h <;> rw [h] <;> rfl

theorem op_eq_of_decodeRequest_eq {p : Port} {r r' : Record} (h : decodeRequest p r = decodeRequest p r') :
    r.op = r'.op := by
  have hop := congrArg Spec.opAndPort h
  simp only [opAndPort_decodeRequest, Option.some.injEq, Prod.mk.injEq, and_true] at hop
  exact hop

/-- Of two records with one op, only the fields R83 lists for it decide whether they decode alike. -/
theorem decodeRequest_eq_iff_sameRead {p : Port} {r r' : Record} (hop : r.op = r'.op) :
    decodeRequest p r = decodeRequest p r' ↔ Spec.sameRead r r' := by
  unfold decodeRequest Spec.sameRead
  rcases opField_cases r'.op with h | h | h | h | h | h | h | h | h | h | h | h | h | h | h | h <;>
    simp [hop, h, bit_inj]

/-- Settles O3: equal instructions have equal ops, and for one op the fields its row takes are those of R83. -/
theorem decoderReadsExactlyTheListedFields : Obligations.DecoderReadsExactlyTheListedFields := by
  intro p r r'
  constructor
  · intro h
    exact (decodeRequest_eq_iff_sameRead (op_eq_of_decodeRequest_eq h)).1 h
  · intro h
    exact (decodeRequest_eq_iff_sameRead h.1).2 h

/-! ### The protocol opcode (30_encoding.md R91) -/

/-- The four bits 11:8, taken by a mask or by shifting them down and up again. -/
theorem and_0xF00_eq_shift (n : Nat) : n &&& 0xF00 = ((n >>> 8) % 2 ^ 4) <<< 8 := by
  have hmask : 0xF00 = (2 ^ 4 - 1) <<< 8 := rfl
  apply Nat.eq_of_testBit_eq
  intro k
  rw [hmask, ← Nat.and_two_pow_sub_one_eq_mod, Nat.shiftLeft_and_distrib]
  simp only [Nat.testBit_and, Nat.testBit_shiftLeft, Nat.testBit_shiftRight]
  by_cases hk : 8 ≤ k <;> simp [hk]

/-- Settles O6: the two parts of the opcode are the two masks of the formula. -/
theorem protocolOpcodeIsTheFormula : Obligations.ProtocolOpcodeIsTheFormula := by
  intro f d
  have hhigh : (f.toNat >>> 24) &&& 0xF00 = (f.toNat >>> 32 % 2 ^ 4) <<< 8 := by
    rw [and_0xF00_eq_shift, ← Nat.shiftRight_add]
  have hlow : d.toNat &&& 0xFF = d.toNat % 2 ^ 8 := Nat.and_two_pow_sub_one_eq_mod d.toNat 8
  rw [hhigh, hlow, protoOpcode, BitVec.toNat_append, BitVec.extractLsb'_toNat, BitVec.extractLsb'_toNat,
    Nat.shiftRight_zero]

/-! ### What a live state does with a request -/

theorem exec_live {s : State} (hs : s.Live) (i : Instr) : exec i s = .next (effectOf i s) :=
  (exec_eq_next_iff i s _).2 ⟨hs, rfl⟩

theorem portOf_eq_namedPort (op : OpField) : portOf op = Spec.namedPort op := by
  revert op; decide

/-- Every request of an op that is not reserved has its port looked at first (60_exceptions.md R215). -/
theorem effectOf_eq_onPort {i : Instr} {op : OpField} {p q : Port} (hi : Spec.opAndPort i = some (op, p))
    (hop : portOf op = some q) : ∃ body, effectOf i = onPort op p i body := by
  cases i with
  | reserved0 | reservedB | reservedC | reservedD | reservedE | reservedF => cases hi; cases hop
  | opcStatus | opcLightEvt | opcIdle | opcMotion | opcOther => cases hi
  | _ => cases hi; exact ⟨_, rfl⟩

/-- Settles O23: the request's effect looks at the port first, and refuses a wrong one. -/
theorem wrongPortIsRefused : Obligations.WrongPortIsRefused := by
  intro s i op p q hs hi hq hne
  rw [← portOf_eq_namedPort] at hq
  have hport : portOf op ≠ some p := by
    rw [hq]
    exact fun h => hne (Option.some.inj h).symm
  obtain ⟨body, hbody⟩ := effectOf_eq_onPort hi hq
  rw [exec_live hs, hbody, onPort_other hport]
  rfl

/-- Settles O22: the effect of a reserved op is its refusal. -/
theorem reservedOpsAreRefused : Obligations.ReservedOpsAreRefused :=
  fun _ _ hs => ⟨exec_live hs _, exec_live hs _, exec_live hs _, exec_live hs _, exec_live hs _, exec_live hs _⟩

/-- Settles O24: on the right port the channel is looked at before anything is written. -/
theorem badChannelIsRefused : Obligations.BadChannelIsRefused := by
  intro s level now hs
  constructor
  · rw [exec_live hs, effectOf, onPort_same portOf_dcEdge]
    rfl
  · rw [exec_live hs, effectOf, onPort_same portOf_dcTake]
    rfl

/-! ### No body of a request writes REFUSED (60_exceptions.md R211) -/

@[simp] theorem ctrLoadEffect_refused (b : Bool) (v : BitVec 32) (s : State) :
    (ctrLoadEffect b v s).refused = s.refused := by
  unfold ctrLoadEffect
  split_ifs
  · rfl
  · rfl
  · cases s.config.ctrLoadOor
    rfl

@[simp] theorem ctrReadEffect_refused (s : State) : (ctrReadEffect s).refused = s.refused := rfl

@[simp] theorem encEffect_refused (wc : Config.WireCodec) (f : Fixed) (d : Data) (hold : Bool) (s : State) :
    (encEffect wc f d hold s).refused = s.refused := rfl

@[simp] theorem decEffect_refused (wc : Config.WireCodec) (fr : Frame) (s : State) :
    (decEffect wc fr s).refused = s.refused := by
  unfold decEffect
  split <;> rfl

@[simp] theorem faByteEffect_refused (wc : Config.WireCodec) (b : Byte) (s : State) :
    (faByteEffect wc b s).refused = s.refused := by
  unfold faByteEffect
  cases s.faMode with
  | scanning =>
    simp only [faScan]
    split <;> rfl
  | capturing =>
    simp only [faCapture]
    split <;> rfl

@[simp] theorem dcEdgeEffect_refused (level : Bool) (ch : Channel) (now : Nat) (s : State) :
    (dcEdgeEffect level ch now s).refused = s.refused := by
  unfold dcEdgeEffect
  split_ifs <;> rfl

@[simp] theorem dcTakeRead_refused (ch : Channel) (s : State) : (dcTakeRead ch s).refused = s.refused := rfl

@[simp] theorem obEdgeEffect_refused (level : Bool) (now : Nat) (s : State) :
    (obEdgeEffect level now s).refused = s.refused := by
  unfold obEdgeEffect
  split <;> rfl

@[simp] theorem obEvalEffect_refused (level : Bool) (now : Nat) (s : State) :
    (obEvalEffect level now s).refused = s.refused := by
  unfold obEvalEffect
  split <;> rfl

/-! ### A request is refused exactly when it is ill-formed -/

@[simp] theorem withTime_refused {effect : Nat → State → State} {s : State}
    (heffect : ∀ n, (effect n s).refused = s.refused) (now : Nat) : (withTime now effect s).refused = s.refused :=
  heffect _

theorem onPort_refused_eq_nil_iff (op : OpField) (p : Port) (i : Instr) (effect : State → State) (s : State) :
    (onPort op p i effect s).refused = [] ↔ some p = portOf op ∧ (effect s).refused = [] := by
  by_cases h : portOf op = some p
  · simp [onPort_same h, h]
  · simp [onPort_other h, Ne.symm h]

/-- With a body that refuses nothing, the channel field alone decides (30_encoding.md R86). -/
theorem withChannel_refused_eq_nil_iff {effect : Channel → State → State} {s : State} (hs : s.refused = [])
    (heffect : ∀ c, (effect c s).refused = s.refused) (ch : BitVec 2) (i : Instr) :
    (withChannel ch i effect s).refused = [] ↔ legalChannel ch = true := by
  cases hch : channelOf ch with
  | none =>
    obtain rfl := (channelOf_eq_none_iff ch).1 hch
    simp [legalChannel]
  | some c =>
    have hne : ch ≠ 3#2 := fun h => by simp [(channelOf_eq_none_iff ch).2 h] at hch
    simp [withChannel, hch, heffect, hs, legalChannel, hne]

/-- Of an empty REFUSED, a request leaves it empty exactly when it is well formed (30_encoding.md R84 to R86). -/
theorem effectOf_refused_eq_nil_iff {i : Instr} {s : State} (hs : s.refused = []) (hi : Spec.opAndPort i ≠ none) :
    (effectOf i s).refused = [] ↔ i.wellFormed = true := by
  cases i with
  | reserved0 | reservedB | reservedC | reservedD | reservedE | reservedF =>
    simp [effectOf, refuseReserved, Instr.wellFormed]
  | opcStatus | opcLightEvt | opcIdle | opcMotion | opcOther => exact absurd rfl hi
  | dcEdge p ch level now =>
    rw [effectOf, onPort_refused_eq_nil_iff, withChannel_refused_eq_nil_iff hs (by simp)]
    simp [Instr.wellFormed]
  | dcTake p ch =>
    rw [effectOf, onPort_refused_eq_nil_iff, withChannel_refused_eq_nil_iff hs (by simp)]
    simp [Instr.wellFormed]
  | _ => simp [effectOf, onPort_refused_eq_nil_iff, hs, Instr.wellFormed]

/-- Settles O28: the checks of R84 to R86 are what makes a request well formed, and no body refuses anything. -/
theorem refusedExactlyWhenIllFormed : Obligations.RefusedExactlyWhenIllFormed :=
  fun _ i hs hi => ⟨_, exec_live hs i, effectOf_refused_eq_nil_iff hs.2 hi⟩

end Sys2Proof.Machine

/-! SUPPORT. The family 40_codec.md: the whole next state of CTR_LOAD, CTR_READ, ENC and DEC (R114 to R120). -/

namespace Sys2Proof.Machine

/-! ### On MAIN a live state runs the body of the request (30_encoding.md R82, R84) -/

theorem exec_ctrLoad_main {s : State} (hs : s.Live) (present : Bool) (v : BitVec 32) :
    exec (.ctrLoad .main present v) s = .next (ctrLoadEffect present v s) := by
  rw [exec_live hs, effectOf, onPort_same portOf_ctrLoad]

theorem exec_ctrRead_main {s : State} (hs : s.Live) : exec (.ctrRead .main) s = .next (ctrReadEffect s) := by
  rw [exec_live hs, effectOf, onPort_same portOf_ctrRead]

theorem exec_enc_main {s : State} (hs : s.Live) (f : Fixed) (d : Data) (hold : Bool) :
    exec (.enc .main f d hold) s = .next (encEffect Config.wireCodec f d hold s) := by
  rw [exec_live hs, effectOf, onPort_same portOf_enc]

theorem exec_dec_main {s : State} (hs : s.Live) (fr : Frame) :
    exec (.dec .main fr) s = .next (decEffect Config.wireCodec fr s) := by
  rw [exec_live hs, effectOf, onPort_same portOf_dec]

/-! ### CTR_LOAD and CTR_READ (40_codec.md R119, R120) -/

theorem ctrLoadEffect_absent (v : BitVec 32) (s : State) :
    ctrLoadEffect false v s = (s.setCtr 0).respondMain .ok := rfl

theorem ctrLoadEffect_in_range {v : BitVec 32} (hv : v.toNat < 2 ^ 28) (s : State) :
    ctrLoadEffect true v s = (s.setCtr (v.extractLsb' 0 28)).respondMain .ok := by
  rw [← BitVec.setWidth_eq_extractLsb' (by decide)]
  exact if_pos hv

/-- The one value 00_scope.md R9 admits for CTR_LOAD_OOR is the fault. -/
theorem ctrLoadEffect_out_of_range {v : BitVec 32} (hv : 2 ^ 28 ≤ v.toNat) (s : State) :
    ctrLoadEffect true v s = s.raise (.counterLoadRange v) := by
  cases hpolicy : s.config.ctrLoadOor with
  | fault => rw [ctrLoadEffect, if_neg (by decide), if_neg (Nat.not_lt.2 hv), hpolicy]

/-- Settles O9: the three cases of R119, one lemma about the body for each. -/
theorem ctrLoadResult : Obligations.CtrLoadResult := by
  intro s v hs
  refine ⟨?_, fun hv => ?_, fun hv => ?_⟩
  · rw [exec_ctrLoad_main hs, ctrLoadEffect_absent]
    rfl
  · rw [exec_ctrLoad_main hs, ctrLoadEffect_in_range hv]
    rfl
  · rw [exec_ctrLoad_main hs, ctrLoadEffect_out_of_range hv]
    rfl

/-- Settles O10: the response is CTR zero-extended, and the response is all the body writes. -/
theorem ctrReadResult : Obligations.CtrReadResult := by
  intro s hs
  rw [exec_ctrRead_main hs, ctrReadEffect, BitVec.ofNat_toNat]
  rfl

/-! ### ENC (40_codec.md R114, R115) -/

theorem frameOf_wireCodec (c : Counter) (f : Fixed) (d : Data) :
    frameOf Config.wireCodec c f d = Spec.frame c f d := rfl

theorem ctrAfter_hold (c : Counter) : ctrAfter true c = c := rfl

/-- The counter advances by one modulo 2^28 (40_codec.md R115). -/
theorem ctrAfter_advance (c : Counter) : ctrAfter false c = BitVec.ofNat 28 ((c.toNat + 1) % 2 ^ 28) := by
  apply BitVec.eq_of_toNat_eq
  rw [BitVec.toNat_ofNat, Nat.mod_mod]
  exact BitVec.toNat_add c 1

/-- The frame is built with the old counter and the device id, then the counter moves on (40_codec.md R114). -/
theorem encEffect_wireCodec (f : Fixed) (d : Data) (hold : Bool) (s : State) :
    encEffect Config.wireCodec f d hold s =
      ((s.emit (.txFrame (Spec.frame s.ctr (f ||| 0x539#40) d))).setCtr (ctrAfter hold s.ctr)).respondMain
        (.encoded (Spec.frame s.ctr (f ||| 0x539#40) d) s.ctr) := by
  rw [encEffect, withDeviceId_eq, frameOf_wireCodec]

/-- Settles O11: one body for both values of hold, which differ in the counter they leave. -/
theorem encResult : Obligations.EncResult := by
  intro s f d hs
  constructor
  · rw [exec_enc_main hs, encEffect_wireCodec, ctrAfter_advance]
    rfl
  · rw [exec_enc_main hs, encEffect_wireCodec, ctrAfter_hold]
    rfl

/-! ### DEC (40_codec.md R116 to R118) -/

/-- deliver(fr) emits the RxMsg of what wc_dec makes of bytes 3 to 18, and writes nothing else (40_codec.md R118). -/
theorem deliver_wireCodec (fr : Frame) (s : State) :
    s.deliver Config.wireCodec fr = s.emit (Spec.delivered fr) := rfl

theorem decEffect_preamble {fr : Frame} (h : fr[0] = 0x55#8 ∧ fr[1] = 0x01#8 ∧ fr[2] = 0x00#8) (s : State) :
    decEffect Config.wireCodec fr s = (s.emit (Spec.delivered fr)).respondMain .accept := by
  rw [← deliver_wireCodec]
  exact if_pos ((preambleOk_iff fr).2 h)

theorem decEffect_no_preamble {fr : Frame} (h : ¬ (fr[0] = 0x55#8 ∧ fr[1] = 0x01#8 ∧ fr[2] = 0x00#8)) (s : State) :
    decEffect Config.wireCodec fr s = s.respondMain .discard :=
  if_neg (mt (preambleOk_iff fr).1 h)

/-- Settles O12: the three preamble bytes decide between delivery and discard. -/
theorem decResult : Obligations.DecResult := by
  intro s fr hs
  rw [exec_dec_main hs]
  split_ifs with h
  · rw [decEffect_preamble h]
    rfl
  · rw [decEffect_no_preamble h]
    rfl

end Sys2Proof.Machine

/-! SUPPORT. The family 41_frame_assembler.md: the whole next state of FA_BYTE (R150 to R152). -/

namespace Sys2Proof.Machine

theorem exec_faByte_main {s : State} (hs : s.Live) (b : Byte) :
    exec (.faByte .main b) s = .next (faByteEffect Config.wireCodec b s) := by
  rw [exec_live hs, effectOf, onPort_same portOf_faByte]

/-! ### SCANNING (41_frame_assembler.md R150) -/

theorem faByteEffect_scanning {s : State} (hm : s.faMode = .scanning) (wc : Config.WireCodec) (b : Byte) :
    faByteEffect wc b s = faScan b s := by
  rw [faByteEffect, hm]

theorem faScan_match {s : State} {b : Byte} (h : shiftIn s.faShift b = 0x550100#24) :
    faScan b s =
      (s.setFa .capturing (shiftIn s.faShift b) 3 (((s.faBuf.set 0 0x55).set 1 0x01).set 2 0x00)).respondMain
        .sync :=
  if_pos (h.trans preambleShift_eq.symm)

/-- Without a match only FA_SHIFT and the response are written. -/
theorem faScan_no_match {s : State} (hm : s.faMode = .scanning) {b : Byte}
    (h : shiftIn s.faShift b ≠ 0x550100#24) :
    faScan b s = (s.setFa s.faMode (shiftIn s.faShift b) s.faCount s.faBuf).respondMain .scan := by
  rw [hm, faScan, preambleShift_eq, if_neg h]

/-- Settles O13: whether the shifted register is the preamble decides between the two cases of R150. -/
theorem faByteScanningResult : Obligations.FaByteScanningResult := by
  intro s b hs hm
  rw [exec_faByte_main hs, faByteEffect_scanning hm]
  split_ifs with h
  · rw [faScan_match h]
    rfl
  · rw [faScan_no_match hm h]
    rfl

/-! ### CAPTURING (41_frame_assembler.md R151, R152) -/

theorem faByteEffect_capturing {s : State} (hm : s.faMode = .capturing) (wc : Config.WireCodec) (b : Byte) :
    faByteEffect wc b s = faCapture wc b s := by
  rw [faByteEffect, hm]

/-- A count in the frame stores the byte there. -/
theorem captured_eq_set (buf : Frame) (count : BitVec 5) (b : Byte) (h : count.toNat < 19) :
    captured buf count b = buf.set count.toNat b h := by
  apply Vector.ext
  intro i hi
  rw [captured, Vector.getElem_setIfInBounds hi, Vector.getElem_set h hi]

theorem count_succ (count : BitVec 5) : count + 1 = BitVec.ofNat 5 (count.toNat + 1) := by
  apply BitVec.eq_of_toNat_eq
  rw [BitVec.toNat_ofNat]
  exact BitVec.toNat_add count 1

/-- The byte that completes a frame is the one stored at 18 (41_frame_assembler.md R152). -/
theorem count_succ_eq_frameLen_iff (count : BitVec 5) :
    count + 1 = BitVec.ofNat 5 Config.frameLen ↔ count.toNat = 18 := by
  revert count; decide

theorem faCapture_last {s : State} (h : s.faCount.toNat = 18) (wc : Config.WireCodec) (b : Byte) :
    faCapture wc b s = faComplete wc (captured s.faBuf s.faCount b) s :=
  if_pos ((count_succ_eq_frameLen_iff s.faCount).2 h)

/-- Before the last byte only FA_COUNT, FA_BUF and the response are written (41_frame_assembler.md R151). -/
theorem faCapture_not_last {s : State} (hm : s.faMode = .capturing) (h : s.faCount.toNat ≠ 18)
    (wc : Config.WireCodec) (b : Byte) :
    faCapture wc b s =
      (s.setFa s.faMode s.faShift (BitVec.ofNat 5 (s.faCount.toNat + 1))
        (captured s.faBuf s.faCount b)).respondMain .stored := by
  rw [hm, ← count_succ]
  exact if_neg (mt (count_succ_eq_frameLen_iff s.faCount).1 h)

theorem faComplete_wireCodec (buf : Frame) (s : State) :
    faComplete Config.wireCodec buf s = ((s.emit (Spec.delivered buf)).setFa .scanning 0 0 buf).respondMain
      .frameDone := by
  rw [faComplete, deliver_wireCodec]

/-- Settles O14: the byte is stored at the count, and whether the count was 18 decides between R151 and R152. -/
theorem faByteCapturingResult : Obligations.FaByteCapturingResult := by
  rintro s b _ h hs hm rfl -
  rw [exec_faByte_main hs, faByteEffect_capturing hm]
  split_ifs with hlast
  · rw [faCapture_last hlast, faComplete_wireCodec, captured_eq_set _ _ _ h]
    rfl
  · rw [faCapture_not_last hm hlast, captured_eq_set _ _ _ h]
    rfl

end Sys2Proof.Machine

/-! SUPPORT. The family 42_debounce.md: the whole next state of DC_EDGE (R171 to R173, R177) and of both parts of
DC_TAKE (R174, R175). -/

namespace Sys2Proof.Machine

/-! ### DC_TAKE (42_debounce.md R174, R175) -/

theorem exec_dcTake_main {s : State} (hs : s.Live) (ch : Channel) :
    exec (.dcTake .main ch.code) s = .next (dcTakeRead ch s) := by
  rw [exec_live hs, effectOf, onPort_same portOf_dcTake, withChannel_code]

@[simp] theorem PerChannel.set_set {α : Type} (v : PerChannel α) (ch : Channel) (a b : α) :
    (v.set ch a).set ch b = v.set ch b := by
  cases ch <;> rfl

theorem clearsLatch_iff (policy : Config.ClearPolicy) (r : Bool) :
    clearsLatch policy r = true ↔ policy = .always ∨ r = true := by
  simp [clearsLatch]

/-- The clear is by the policy and the bit part 1 read; a latch not cleared stays as it is (42_debounce.md R175). -/
theorem dcTakeFinish_eq (ch : Channel) (r : Bool) (s : State) :
    dcTakeFinish ch r s =
      { s with
        dcLatch := if s.config.clearPolicy = .always ∨ r = true then s.dcLatch.set ch false else s.dcLatch
        dcTakePend := s.dcTakePend.set ch none, mainResp := s.mainResp ++ [.taken r] } := by
  simp only [dcTakeFinish, clearsLatch_iff]
  split_ifs
  · rfl
  · rw [State.setLatch, PerChannel.set_get]
    rfl

/-- On MAIN's turn a DC_TAKE between its two parts is finished, whatever waits in the queue (20_memory.md R70). -/
theorem step_finishes_pendingTake {s : State} (hs : s.Live) (hturn : s.nextSource = .main) {ch : Channel} {r : Bool}
    (hp : s.pendingTake = some (ch, r)) : step s = .next (dcTakeFinish ch r s.advance) := by
  have hfetch : fetch s = (.finishTake ch r, s.advance) := by
    have hp' : s.advance.pendingTake = some (ch, r) := hp
    rw [fetch, hturn]
    simp only [fetchMain, hp']
  rw [step_eq_next_iff, hfetch, perform_eq_next_iff]
  exact ⟨hs, rfl⟩

theorem pendingTake_setTakePend {s : State} (hn : Spec.NonePending s) (ch : Channel) (r : Bool) :
    (s.setTakePend ch (some r)).pendingTake = some (ch, r) := by
  rw [State.pendingTake, State.setTakePend_dcTakePend, hn.1]
  cases ch <;> rfl

theorem dcTakePend_set_none {s : State} (hn : Spec.NonePending s) (ch : Channel) :
    s.dcTakePend.set ch none = s.dcTakePend := by
  rw [hn.1]
  cases ch <;> rfl

/-- Settles O16: part 1 marks the channel with the bit read, and a marked channel is what MAIN's next step finishes. -/
theorem dcTakeResult : Obligations.DcTakeResult := by
  intro s ch hs hn
  refine ⟨exec_dcTake_main hs ch, fun hturn => ?_⟩
  have hstep : step (dcTakeRead ch s) = .next (dcTakeFinish ch (s.dcLatch.get ch) (dcTakeRead ch s).advance) :=
    step_finishes_pendingTake (s := dcTakeRead ch s) hs hturn (pendingTake_setTakePend hn ch _)
  have hmark : (dcTakeRead ch s).dcTakePend.set ch none = s.dcTakePend := by
    rw [dcTakeRead, State.setTakePend_dcTakePend, PerChannel.set_set, dcTakePend_set_none hn]
  rw [dcTakeFinish_eq, State.advance_dcTakePend, hmark] at hstep
  exact hstep

/-! ### DC_EDGE (42_debounce.md R171 to R173, R177) -/

theorem exec_dcEdge_isr {s : State} (hs : s.Live) (ch : Channel) (level : Bool) (now : Nat) :
    exec (.dcEdge .isr ch.code level now) s = .next (dcEdgeEffect level ch (Spec.seen s now) s) := by
  rw [exec_live hs, effectOf, onPort_same portOf_dcEdge, withChannel_code, withTime]

/-- Elapsed time is the difference as integers, of whatever bits of `now` arrive (00_scope.md R15). -/
theorem elapsed_seen (s : State) (now t : Nat) :
    elapsed s.config.timeW (Spec.seen s now) t = Spec.since s now t := by
  rw [elapsed_mod_left, elapsed_eq, Spec.since]

/-- The startup guard: settle(now) leaves SETTLED at 0 exactly when it was 0 and 2000 ms are not over (42_debounce.md
R172, R177). -/
theorem settledAfter_eq_false_iff (b : Bool) (now : Nat) :
    settledAfter b now = false ↔ b = false ∧ now < 2000 := by
  rw [← Bool.not_eq_true, settledAfter_eq_true_iff, not_or, Bool.not_eq_true, Nat.not_le]

/-- In the guard settle(now) writes nothing, since SETTLED is 0 already. -/
theorem dcEdgeEffect_guarded {s : State} {now : Nat} (h : s.settled = false ∧ now < 2000) (level : Bool)
    (ch : Channel) : dcEdgeEffect level ch now s = s.respondIsr .guarded := by
  have hg : settledAfter s.settled now = false := (settledAfter_eq_false_iff _ _).2 h
  have hsettle : s.settle now = s := by rw [State.settle, hg, ← h.1]
  rw [dcEdgeEffect, if_pos hg, hsettle]

/-- Past the guard SETTLED is 1, and the edge decides. -/
theorem dcEdgeEffect_settled {s : State} {now : Nat} (h : ¬ (s.settled = false ∧ now < 2000)) (level : Bool)
    (ch : Channel) :
    dcEdgeEffect level ch now s =
      if level = false then (({ s with settled := true }).setFallTs ch now).respondIsr .fall
      else if inPressWindow (elapsed s.config.timeW now (s.dcFallTs.get ch)) then
        (({ s with settled := true }).setLatch ch true).respondIsr .latch
      else ({ s with settled := true }).respondIsr .reject := by
  have hg : ¬ settledAfter s.settled now = false := mt (settledAfter_eq_false_iff _ _).1 h
  rw [dcEdgeEffect, if_neg hg, State.settle, eq_true_of_ne_false hg]

/-- Settles O15: the guard decides first, then the edge, then whether the elapsed time is in the press window. -/
theorem dcEdgeResult : Obligations.DcEdgeResult := by
  intro s ch level now hs
  rw [exec_dcEdge_isr hs]
  split_ifs with hguard hfall hwindow
  · rw [dcEdgeEffect_guarded hguard]
    rfl
  · rw [dcEdgeEffect_settled hguard, if_pos hfall]
    rfl
  · rw [dcEdgeEffect_settled hguard, if_neg hfall, elapsed_seen, if_pos ((inPressWindow_iff _).2 hwindow)]
    rfl
  · rw [dcEdgeEffect_settled hguard, if_neg hfall, elapsed_seen, if_neg (mt (inPressWindow_iff _).1 hwindow)]
    rfl

end Sys2Proof.Machine

/-! SUPPORT. The family 43_obstruction.md: the whole next state of OB_EDGE (R190) and of both parts of OB_EVAL (R191 to
R193). -/

namespace Sys2Proof.Machine

/-- settle(now) writes SETTLED only, which 2000 ms set (42_debounce.md R177). -/
theorem settle_eq (now : Nat) (s : State) :
    s.settle now = { s with settled := s.settled || decide (2000 ≤ now) } := rfl

/-! ### OB_EDGE (43_obstruction.md R190) -/

theorem exec_obEdge_isr {s : State} (hs : s.Live) (level : Bool) (now : Nat) :
    exec (.obEdge .isr level now) s = .next (obEdgeEffect level (Spec.seen s now) s) := by
  rw [exec_live hs, effectOf, onPort_same portOf_obEdge, withTime]

theorem obEdgeEffect_high (now : Nat) (s : State) :
    obEdgeEffect true now s = ((s.settle now).setLastHigh now).respondIsr .high := rfl

theorem obEdgeEffect_low (now : Nat) (s : State) :
    obEdgeEffect false now s =
      ((s.settle now).setLowCount ((s.obLowCount + 1) % 2 ^ s.config.lowCountW)).respondIsr .low := rfl

/-- Settles O17: one lemma about the body for each level. -/
theorem obEdgeResult : Obligations.ObEdgeResult := by
  intro s now hs
  constructor
  · rw [exec_obEdge_isr hs, obEdgeEffect_high, settle_eq]
    rfl
  · rw [exec_obEdge_isr hs, obEdgeEffect_low, settle_eq]
    rfl

/-! ### The gate of OB_EVAL (43_obstruction.md R191) -/

theorem exec_obEval_main {s : State} (hs : s.Live) (level : Bool) (now : Nat) :
    exec (.obEval .main level now) s = .next (obEvalEffect level (Spec.seen s now) s) := by
  rw [exec_live hs, effectOf, onPort_same portOf_obEval, withTime]

/-- The gate passes exactly when more than 50 ms are over, of whatever bits of `now` arrive. -/
theorem windowDue_seen_iff (s : State) (now : Nat) :
    windowDue s.config.timeW (Spec.seen s now) s.obLastEvalTs = true ↔ 50 < Spec.since s now s.obLastEvalTs := by
  rw [windowDue_iff, elapsed_seen]

theorem obEvalEffect_notDue {s : State} {now : Nat} (h : Spec.since s now s.obLastEvalTs ≤ 50) (level : Bool) :
    obEvalEffect level (Spec.seen s now) s = (s.settle (Spec.seen s now)).respondMain .notDue :=
  if_neg (mt (windowDue_seen_iff s now).1 (Nat.not_lt.2 h))

/-- Settles O18: the gate does not pass, so the body settles and responds. -/
theorem obEvalNotDueResult : Obligations.ObEvalNotDueResult := by
  intro s level now hs hgate
  rw [exec_obEval_main hs, obEvalEffect_notDue hgate, settle_eq]
  rfl

/-! ### Part 1 of a gated OB_EVAL, the classification (43_obstruction.md R192) -/

/-- The class an OB_EVAL finds, of the registers as they were and of the bits of `now` that arrive. -/
def State.windowClass (s : State) (level : Bool) (now : Nat) : WindowClass :=
  classify s.config.timeW s.obLowCount level (Spec.seen s now) s.obLastHighTs

/-- The four cases of the classification, each with its class and what OBST becomes. -/
theorem windowClass_cases (s : State) (level : Bool) (now : Nat) :
    (3 ≤ s.obLowCount ∧ s.obLowCount ≤ 8) ∧
        s.windowClass level now = .setClear ∧ obstAfter s.obst (s.windowClass level now) = .clear ∨
      (s.obLowCount = 0 ∧ level = true ∧ 70 < Spec.since s now s.obLastHighTs) ∧
        s.windowClass level now = .setObstructed ∧ obstAfter s.obst (s.windowClass level now) = .obstructed ∨
      (s.obLowCount = 0 ∧ ¬ (level = true ∧ 70 < Spec.since s now s.obLastHighTs)) ∧
        s.windowClass level now = .asleep ∧ obstAfter s.obst (s.windowClass level now) = s.obst ∨
      (s.obLowCount = 1 ∨ s.obLowCount = 2 ∨ 9 ≤ s.obLowCount) ∧
        s.windowClass level now = .noClass ∧ obstAfter s.obst (s.windowClass level now) = s.obst := by
  unfold State.windowClass
  rw [← elapsed_seen]
  rcases classify_cases s.config.timeW s.obLowCount level (Spec.seen s now) s.obLastHighTs with
    ⟨hmin, hmax, hclass⟩ | ⟨hzero, hlevel, hlong, hclass⟩ | ⟨hzero, hnot, hclass⟩ | ⟨hzero, hrange, hclass⟩ <;>
    rw [hclass]
  · exact .inl ⟨⟨hmin, hmax⟩, rfl, rfl⟩
  · exact .inr (.inl ⟨⟨hzero, hlevel, hlong⟩, rfl, rfl⟩)
  · exact .inr (.inr (.inl ⟨⟨hzero, hnot⟩, rfl, rfl⟩))
  · exact .inr (.inr (.inr ⟨by omega, rfl, rfl⟩))

theorem obEvalEffect_gated {s : State} {now : Nat} (h : 50 < Spec.since s now s.obLastEvalTs) (level : Bool) :
    obEvalEffect level (Spec.seen s now) s =
      obEvalClassify (s.windowClass level now) (Spec.seen s now) (s.settle (Spec.seen s now)) :=
  if_pos ((windowDue_seen_iff s now).2 h)

/-! ### Part 2 of a gated OB_EVAL, the window reset (43_obstruction.md R193) -/

theorem obEvalFinish_eq (c : WindowClass) (s : State) :
    obEvalFinish c s = { s with obLowCount := 0, obRstPend := none, mainResp := s.mainResp ++ [.window c] } := rfl

/-- On MAIN's turn an OB_EVAL between its two parts is finished, whatever waits in the queue (20_memory.md R70). -/
theorem step_finishes_pendingEval {s : State} (hs : s.Live) (hturn : s.nextSource = .main)
    (htake : s.pendingTake = none) {c : WindowClass} (hc : s.obRstPend = some c) :
    step s = .next (obEvalFinish c s.advance) := by
  have hfetch : fetch s = (.finishEval c, s.advance) := by
    have htake' : s.advance.pendingTake = none := htake
    rw [fetch, hturn]
    simp only [fetchMain, htake', State.advance_obRstPend, hc]
  rw [step_eq_next_iff, hfetch, perform_eq_next_iff]
  exact ⟨hs, rfl⟩

theorem pendingTake_eq_none {s : State} (h : s.dcTakePend = ⟨none, none, none⟩) : s.pendingTake = none := by
  rw [State.pendingTake, h]
  rfl

/-- Settles O19: part 1 writes what the four cases of the classification say and leaves its class pending, and a pending
class is what MAIN's next step finishes. -/
theorem obEvalGatedResult : Obligations.ObEvalGatedResult := by
  intro s level now hs hn hgate
  refine ⟨s.windowClass level now, obstAfter s.obst (s.windowClass level now), windowClass_cases s level now, ?_,
    fun hturn => ?_⟩
  · rw [exec_obEval_main hs, obEvalEffect_gated hgate, settle_eq]
    rfl
  · have hstep := step_finishes_pendingEval
      (s := obEvalClassify (s.windowClass level now) (Spec.seen s now) (s.settle (Spec.seen s now))) hs hturn
      (pendingTake_eq_none hn.1) rfl
    rw [obEvalFinish_eq] at hstep
    -- part 2 clears the mark, and before part 1 there was none
    rw [hn.2]
    exact hstep

end Sys2Proof.Machine

/-! SUPPORT. The family 60_exceptions.md: the order of the checks (R215), quiescence (R213), and that a refusal or a fault
writes its mark alone (R211, R212). -/

namespace Sys2Proof.Machine

/-- Settles O25: a reserved op is refused whatever its port, and a wrong port whatever the operands. -/
theorem checksAreInOrder : Obligations.ChecksAreInOrder := by
  intro s p level now v hs
  refine ⟨exec_live hs _, fun hmain => ⟨?_, ?_⟩, fun hisr => ?_⟩
  · exact wrongPortIsRefused s _ _ p _ hs rfl rfl hmain
  · exact wrongPortIsRefused s _ _ p _ hs rfl rfl hmain
  · exact wrongPortIsRefused s _ _ p _ hs rfl rfl hisr

/-! ### Quiescence (60_exceptions.md R213) -/

theorem exec_not_live {s : State} (h : ¬ s.Live) (i : Instr) : exec i s = .fault .quiescent := by
  rw [exec_eq_gate, gate_not_live h]

/-- Quiescence comes before a duty the host broke. -/
theorem noMove_not_live {s : State} (h : ¬ s.Live) (why : Fault) : noMove why s = .fault .quiescent := by
  have hq : s.quiescent = true := by
    rw [← Bool.not_eq_false, quiescent_eq_false_iff]
    exact h
  exact if_pos hq

theorem perform_not_live {s : State} (h : ¬ s.Live) (a : Action) : perform (a, s) = .fault .quiescent := by
  cases a with
  | take i => exact exec_not_live h i
  | finishTake ch r => exact gate_not_live h _
  | finishEval c => exact gate_not_live h _
  | idle => exact gate_not_live h _
  | noMove why => exact noMove_not_live h why

theorem SameMachine.live_iff {s t : State} (h : SameMachine s t) : t.Live ↔ s.Live := by
  rw [State.Live, State.Live, h.fault, h.refused]

/-- Whatever comes next, fetching it writes no register, mark or output. -/
theorem fetch_sameMachine (s : State) : SameMachine s (fetch s).2 := by
  rcases fetch_cases s with ⟨x, q, -, -, -, -, -, e⟩ | ⟨x, q, -, -, -, e⟩ | ⟨x, q, -, -, -, e⟩ | ⟨m, q, -, -, e⟩ |
    ⟨ch, r, -, -, e⟩ | ⟨c, -, -, -, e⟩ | ⟨b, e⟩ | ⟨why, u, hu, e⟩ <;> rw [e]
  · exact .taken ..
  · exact .taken ..
  · exact .taken ..
  · constructor <;> rfl
  · constructor <;> rfl
  · constructor <;> rfl
  · constructor <;> rfl
  · exact hu

theorem step_not_live {s : State} (h : ¬ s.Live) : step s = .fault .quiescent :=
  perform_not_live (fun hu => h ((fetch_sameMachine s).live_iff.1 hu)) _

/-- Settles O26: a non-empty mark makes the state not live, and then neither an instruction nor a step is taken. -/
theorem quiescentAfterFaultOrRefusal : Obligations.QuiescentAfterFaultOrRefusal := by
  intro s hmark
  have h : ¬ s.Live := fun hs => hmark.elim (· hs.1) (· hs.2)
  exact ⟨exec_not_live h, step_not_live h⟩

/-! ### Only CTR_LOAD's body writes FAULT (60_exceptions.md R212) -/

@[simp] theorem decEffect_fault (wc : Config.WireCodec) (fr : Frame) (s : State) :
    (decEffect wc fr s).fault = s.fault := by
  unfold decEffect
  split <;> rfl

@[simp] theorem faByteEffect_fault (wc : Config.WireCodec) (b : Byte) (s : State) :
    (faByteEffect wc b s).fault = s.fault := by
  unfold faByteEffect
  cases s.faMode with
  | scanning =>
    simp only [faScan]
    split <;> rfl
  | capturing =>
    simp only [faCapture]
    split <;> rfl

@[simp] theorem dcEdgeEffect_fault (level : Bool) (ch : Channel) (now : Nat) (s : State) :
    (dcEdgeEffect level ch now s).fault = s.fault := by
  unfold dcEdgeEffect
  split_ifs <;> rfl

@[simp] theorem obEdgeEffect_fault (level : Bool) (now : Nat) (s : State) :
    (obEdgeEffect level now s).fault = s.fault := by
  unfold obEdgeEffect
  split <;> rfl

@[simp] theorem obEvalEffect_fault (level : Bool) (now : Nat) (s : State) :
    (obEvalEffect level now s).fault = s.fault := by
  unfold obEvalEffect
  split <;> rfl

/-! ### What an instruction does to the marks (60_exceptions.md R211, R212) -/

/-- `t` has the marks of `s`, or is `s` with `i` refused, or is `s` with an out-of-range value recorded as a fault. -/
inductive MarkOutcome (i : Instr) (s t : State) : Prop where
  | kept (fault : t.fault = s.fault) (refused : t.refused = s.refused)
  | refused (why : RefuseReason) (eq : t = s.refuse why i)
  | faulted (f : FaultMark) (range : f.outOfRange = true) (eq : t = s.raise f)

theorem onPort_markOutcome {i : Instr} {effect : State → State} {s : State} (h : MarkOutcome i s (effect s))
    (op : OpField) (p : Port) : MarkOutcome i s (onPort op p i effect s) := by
  by_cases hp : portOf op = some p
  · rw [onPort_same hp]
    exact h
  · exact .refused _ (onPort_other hp i effect s)

theorem withChannel_markOutcome {i : Instr} {effect : Channel → State → State} {s : State}
    (h : ∀ c, MarkOutcome i s (effect c s)) (ch : BitVec 2) : MarkOutcome i s (withChannel ch i effect s) := by
  unfold withChannel
  cases channelOf ch with
  | none => exact .refused _ rfl
  | some c => exact h c

theorem ctrLoadEffect_markOutcome (i : Instr) (present : Bool) (v : BitVec 32) (s : State) :
    MarkOutcome i s (ctrLoadEffect present v s) := by
  cases present with
  | false => exact .kept rfl rfl
  | true =>
    rcases Nat.lt_or_ge v.toNat (2 ^ 28) with hv | hv
    · rw [ctrLoadEffect_in_range hv]
      exact .kept rfl rfl
    · rw [ctrLoadEffect_out_of_range hv]
      exact .faulted (.counterLoadRange v) (decide_eq_true hv) rfl

/-- Everything an instruction can do to FAULT and REFUSED. -/
theorem effectOf_markOutcome (i : Instr) (s : State) : MarkOutcome i s (effectOf i s) := by
  cases i with
  | reset p => exact onPort_markOutcome (.kept rfl rfl) _ p
  | ctrLoad p present v => exact onPort_markOutcome (ctrLoadEffect_markOutcome _ present v s) _ p
  | ctrRead p => exact onPort_markOutcome (.kept rfl rfl) _ p
  | enc p f d hold => exact onPort_markOutcome (.kept rfl rfl) _ p
  | dec p fr => exact onPort_markOutcome (.kept (decEffect_fault ..) (decEffect_refused ..)) _ p
  | faByte p b => exact onPort_markOutcome (.kept (faByteEffect_fault ..) (faByteEffect_refused ..)) _ p
  | dcEdge p ch level now =>
    exact onPort_markOutcome
      (withChannel_markOutcome (fun _ => .kept (dcEdgeEffect_fault ..) (dcEdgeEffect_refused ..)) ch) _ p
  | dcTake p ch => exact onPort_markOutcome (withChannel_markOutcome (fun _ => .kept rfl rfl) ch) _ p
  | obEdge p level now => exact onPort_markOutcome (.kept (obEdgeEffect_fault ..) (obEdgeEffect_refused ..)) _ p
  | obEval p level now => exact onPort_markOutcome (.kept (obEvalEffect_fault ..) (obEvalEffect_refused ..)) _ p
  | reserved0 | reservedB | reservedC | reservedD | reservedE | reservedF => exact .refused _ rfl
  | opcStatus | opcLightEvt | opcIdle | opcMotion | opcOther => exact .kept rfl rfl

/-- Settles O27: a changed mark leaves one of the two outcomes that write a mark, and each writes nothing else. -/
theorem markedRequestsWriteNothingElse : Obligations.MarkedRequestsWriteNothingElse := by
  intro s t i h
  obtain ⟨-, rfl⟩ := (exec_eq_next_iff i s t).1 h
  cases effectOf_markOutcome i s with
  | kept hf hr => exact ⟨fun hne => absurd hr hne, fun hne => absurd hf hne⟩
  | refused why e =>
    rw [e]
    exact ⟨fun _ => rfl, fun hne => absurd rfl hne⟩
  | faulted f _ e =>
    rw [e]
    exact ⟨fun hne => absurd rfl hne, fun _ => rfl⟩

end Sys2Proof.Machine

/-! SUPPORT. What an instruction and a step can do, as an inductive family: one constructor for each outcome a rule of
the spec gives, with the state it leaves. Frames, writers and invariants are case analyses of it. -/

namespace Sys2Proof.Machine

/-! ### The outcomes of an instruction -/

/-- `Effect i s t`: running `i` on `s` leaves `t`. One constructor for each branch of a rule, with the condition of the
branch where a proof needs it. -/
inductive Effect : Instr → State → State → Prop where
  | refused {i : Instr} {s : State} (why : RefuseReason) (ill : i.wellFormed = false) : Effect i s (s.refuse why i)
  | reset {s : State} : Effect (.reset .rst) s s.resetRegs
  | ctrCleared {s : State} (v : BitVec 32) : Effect (.ctrLoad .main false v) s ((s.setCtr 0).respondMain .ok)
  | ctrLoaded {s : State} (v : BitVec 32) (range : v.toNat < 2 ^ 28) :
      Effect (.ctrLoad .main true v) s ((s.setCtr (v.extractLsb' 0 28)).respondMain .ok)
  | ctrFaulted {s : State} (v : BitVec 32) (range : 2 ^ 28 ≤ v.toNat) :
      Effect (.ctrLoad .main true v) s (s.raise (.counterLoadRange v))
  | ctrRead {s : State} : Effect (.ctrRead .main) s (ctrReadEffect s)
  | enc {s : State} (f : Fixed) (d : Data) (hold : Bool) :
      Effect (.enc .main f d hold) s (encEffect Config.wireCodec f d hold s)
  | decAccepted {s : State} (fr : Frame) :
      Effect (.dec .main fr) s ((s.deliver Config.wireCodec fr).respondMain .accept)
  | decDiscarded {s : State} (fr : Frame) : Effect (.dec .main fr) s (s.respondMain .discard)
  | faScanned {s : State} (b : Byte) (mode : s.faMode = .scanning) (differs : shiftIn s.faShift b ≠ 0x550100#24) :
      Effect (.faByte .main b) s ((s.setFa s.faMode (shiftIn s.faShift b) s.faCount s.faBuf).respondMain .scan)
  | faSynced {s : State} (b : Byte) (mode : s.faMode = .scanning) :
      Effect (.faByte .main b) s
        ((s.setFa .capturing 0x550100#24 3 (((s.faBuf.set 0 0x55).set 1 0x01).set 2 0x00)).respondMain .sync)
  | faStored {s : State} (b : Byte) (mode : s.faMode = .capturing) (more : s.faCount.toNat ≠ 18) :
      Effect (.faByte .main b) s
        ((s.setFa s.faMode s.faShift (BitVec.ofNat 5 (s.faCount.toNat + 1))
          (captured s.faBuf s.faCount b)).respondMain .stored)
  | faCompleted {s : State} (b : Byte) (mode : s.faMode = .capturing) (last : s.faCount.toNat = 18) :
      Effect (.faByte .main b) s (faComplete Config.wireCodec (captured s.faBuf s.faCount b) s)
  | dcGuarded {s : State} (ch : Channel) (level : Bool) (now : Nat)
      (guard : settledAfter s.settled (Spec.seen s now) = false) :
      Effect (.dcEdge .isr ch.code level now) s ((s.settle (Spec.seen s now)).respondIsr .guarded)
  | dcFell {s : State} (ch : Channel) (now : Nat) (past : settledAfter s.settled (Spec.seen s now) = true) :
      Effect (.dcEdge .isr ch.code false now) s
        (((s.settle (Spec.seen s now)).setFallTs ch (Spec.seen s now)).respondIsr .fall)
  | dcLatched {s : State} (ch : Channel) (now : Nat) (past : settledAfter s.settled (Spec.seen s now) = true) :
      Effect (.dcEdge .isr ch.code true now) s (((s.settle (Spec.seen s now)).setLatch ch true).respondIsr .latch)
  | dcRejected {s : State} (ch : Channel) (now : Nat) (past : settledAfter s.settled (Spec.seen s now) = true) :
      Effect (.dcEdge .isr ch.code true now) s ((s.settle (Spec.seen s now)).respondIsr .reject)
  | dcRead {s : State} (ch : Channel) : Effect (.dcTake .main ch.code) s (dcTakeRead ch s)
  | obHigh {s : State} (now : Nat) :
      Effect (.obEdge .isr true now) s
        (((s.settle (Spec.seen s now)).setLastHigh (Spec.seen s now)).respondIsr .high)
  | obLow {s : State} (now : Nat) :
      Effect (.obEdge .isr false now) s
        (((s.settle (Spec.seen s now)).setLowCount ((s.obLowCount + 1) % 2 ^ s.config.lowCountW)).respondIsr .low)
  | obNotDue {s : State} (level : Bool) (now : Nat) :
      Effect (.obEval .main level now) s ((s.settle (Spec.seen s now)).respondMain .notDue)
  | obGated {s : State} (level : Bool) (now : Nat) (gate : 50 < Spec.since s now s.obLastEvalTs) :
      Effect (.obEval .main level now) s
        (obEvalClassify (s.windowClass level now) (Spec.seen s now) (s.settle (Spec.seen s now)))
  | opcStatus {s : State} (c : Counter) (hi : BitVec 4) (lo : BitVec 32) (d : BitVec 24) :
      Effect (.opcStatus c hi lo d) s (s.deliverMessage (messageOf Config.opcStatus c hi lo d))
  | opcLightEvt {s : State} (c : Counter) (hi : BitVec 4) (lo : BitVec 32) (d : BitVec 24) :
      Effect (.opcLightEvt c hi lo d) s (s.deliverMessage (messageOf Config.opcLightEvt c hi lo d))
  | opcIdle {s : State} (c : Counter) (hi : BitVec 4) (lo : BitVec 32) (d : BitVec 24) :
      Effect (.opcIdle c hi lo d) s (s.deliverMessage (messageOf Config.opcIdle c hi lo d))
  | opcMotion {s : State} (c : Counter) (hi : BitVec 4) (lo : BitVec 32) (d : BitVec 24) :
      Effect (.opcMotion c hi lo d) s (s.deliverMessage (messageOf Config.opcMotion c hi lo d))
  | opcOther {s : State} (c : Counter) (f : Fixed) (d : Data) :
      Effect (.opcOther c f d) s (s.deliverMessage ⟨c, f, d⟩)

theorem ctrLoadEffect_effect (present : Bool) (v : BitVec 32) (s : State) :
    Effect (.ctrLoad .main present v) s (ctrLoadEffect present v s) := by
  cases present with
  | false => exact .ctrCleared v
  | true =>
    rcases Nat.lt_or_ge v.toNat (2 ^ 28) with hv | hv
    · rw [ctrLoadEffect_in_range hv]
      exact .ctrLoaded v hv
    · rw [ctrLoadEffect_out_of_range hv]
      exact .ctrFaulted v hv

theorem decEffect_effect (fr : Frame) (s : State) : Effect (.dec .main fr) s (decEffect Config.wireCodec fr s) := by
  unfold decEffect
  split
  · exact .decAccepted fr
  · exact .decDiscarded fr

theorem faByteEffect_effect (b : Byte) (s : State) :
    Effect (.faByte .main b) s (faByteEffect Config.wireCodec b s) := by
  cases hm : s.faMode with
  | scanning =>
    rw [faByteEffect_scanning hm]
    by_cases hsync : shiftIn s.faShift b = 0x550100#24
    · rw [faScan_match hsync, hsync]
      exact .faSynced b hm
    · rw [faScan_no_match hm hsync]
      exact .faScanned b hm hsync
  | capturing =>
    rw [faByteEffect_capturing hm]
    by_cases hlast : s.faCount.toNat = 18
    · rw [faCapture_last hlast]
      exact .faCompleted b hm hlast
    · rw [faCapture_not_last hm hlast]
      exact .faStored b hm hlast

theorem dcEdgeEffect_effect (ch : Channel) (level : Bool) (now : Nat) (s : State) :
    Effect (.dcEdge .isr ch.code level now) s (dcEdgeEffect level ch (Spec.seen s now) s) := by
  unfold dcEdgeEffect
  split_ifs with hguard hlevel hwindow
  · exact .dcGuarded ch level now hguard
  · rw [hlevel]
    exact .dcFell ch now (eq_true_of_ne_false hguard)
  · rw [eq_true_of_ne_false hlevel]
    exact .dcLatched ch now (eq_true_of_ne_false hguard)
  · rw [eq_true_of_ne_false hlevel]
    exact .dcRejected ch now (eq_true_of_ne_false hguard)

theorem obEvalEffect_effect (level : Bool) (now : Nat) (s : State) :
    Effect (.obEval .main level now) s (obEvalEffect level (Spec.seen s now) s) := by
  rcases Nat.lt_or_ge 50 (Spec.since s now s.obLastEvalTs) with hgate | hgate
  · rw [obEvalEffect_gated hgate]
    exact .obGated level now hgate
  · rw [obEvalEffect_notDue hgate]
    exact .obNotDue level now

/-- A request on the port R82 names has its body's outcome, on another it is refused (30_encoding.md R84). -/
theorem onPort_effect {i : Instr} {op : OpField} {p q : Port} {body : State → State} {s : State}
    (hop : portOf op = some q) (hbody : p = q → Effect i s (body s)) (hill : p ≠ q → i.wellFormed = false) :
    Effect i s (onPort op p i body s) := by
  by_cases hp : p = q
  · rw [onPort_same (hop.trans (congrArg some hp.symm))]
    exact hbody hp
  · rw [onPort_other (by simp [hop, Ne.symm hp])]
    exact .refused _ (hill hp)

/-- A request that names a channel has its body's outcome there, and channel 3 is refused (30_encoding.md R86). -/
theorem withChannel_effect {i : Instr} {ch : BitVec 2} {body : Channel → State → State} {s : State}
    (hbody : ∀ c : Channel, ch = c.code → Effect i s (body c s)) (hill : ch = 3#2 → i.wellFormed = false) :
    Effect i s (withChannel ch i body s) := by
  cases hch : channelOf ch with
  | none =>
    have h3 := (channelOf_eq_none_iff ch).1 hch
    simp only [withChannel, hch]
    exact .refused _ (hill h3)
  | some c =>
    simp only [withChannel, hch]
    exact hbody c ((channelOf_eq_some_iff ch c).1 hch)

/-- Everything an instruction can do. -/
theorem effectOf_effect (i : Instr) (s : State) : Effect i s (effectOf i s) := by
  cases i with
  | reset p => exact onPort_effect portOf_reset (by rintro rfl; exact .reset) beq_false_of_ne
  | ctrLoad p present v =>
    exact onPort_effect portOf_ctrLoad (by rintro rfl; exact ctrLoadEffect_effect present v s) beq_false_of_ne
  | ctrRead p => exact onPort_effect portOf_ctrRead (by rintro rfl; exact .ctrRead) beq_false_of_ne
  | enc p f d hold => exact onPort_effect portOf_enc (by rintro rfl; exact .enc f d hold) beq_false_of_ne
  | dec p fr => exact onPort_effect portOf_dec (by rintro rfl; exact decEffect_effect fr s) beq_false_of_ne
  | faByte p b => exact onPort_effect portOf_faByte (by rintro rfl; exact faByteEffect_effect b s) beq_false_of_ne
  | dcEdge p ch level now =>
    refine onPort_effect portOf_dcEdge ?_ (fun h => by simp [Instr.wellFormed, h])
    rintro rfl
    refine withChannel_effect ?_ (by rintro rfl; rfl)
    rintro c rfl
    exact dcEdgeEffect_effect c level now s
  | dcTake p ch =>
    refine onPort_effect portOf_dcTake ?_ (fun h => by simp [Instr.wellFormed, h])
    rintro rfl
    refine withChannel_effect ?_ (by rintro rfl; rfl)
    rintro c rfl
    exact .dcRead c
  | obEdge p level now =>
    refine onPort_effect portOf_obEdge ?_ beq_false_of_ne
    rintro rfl
    cases level with
    | true => exact .obHigh now
    | false => exact .obLow now
  | obEval p level now =>
    exact onPort_effect portOf_obEval (by rintro rfl; exact obEvalEffect_effect level now s) beq_false_of_ne
  | reserved0 | reservedB | reservedC | reservedD | reservedE | reservedF => exact .refused _ rfl
  | opcStatus c hi lo d => exact .opcStatus c hi lo d
  | opcLightEvt c hi lo d => exact .opcLightEvt c hi lo d
  | opcIdle c hi lo d => exact .opcIdle c hi lo d
  | opcMotion c hi lo d => exact .opcMotion c hi lo d
  | opcOther c f d => exact .opcOther c f d

/-- Everything exec can do. -/
theorem exec_effect {i : Instr} {s t : State} (h : exec i s = .next t) : Effect i s t := by
  obtain ⟨-, rfl⟩ := (exec_eq_next_iff i s t).1 h
  exact effectOf_effect i s

/-! ### The outcomes of a step -/

/-- The host's carriers: queues, schedule, clock and transmitter (log entries 8, 13, 16, 23). -/
structure Carriers where
  mainQ : List Issued
  isrQ : List Issued
  rstQ : List Issued
  rxQ : List Message
  sched : List Source
  hostClock : Option Nat
  lineBusy : Bool

/-- `s` with other carriers: every register, mark and output is that of `s`, by definition. -/
def State.carry (s : State) (k : Carriers) : State :=
  s.withHost k.mainQ k.isrQ k.rstQ k.rxQ k.sched k.hostClock k.lineBusy

theorem SameMachine.exists_carry {s u : State} (h : SameMachine s u) :
    ∃ k : Carriers, k.rxQ = u.rxQ ∧ u = s.carry k := by
  refine ⟨⟨u.mainQ, u.isrQ, u.rstQ, u.rxQ, u.sched, u.hostClock, u.lineBusy⟩, rfl, ?_⟩
  cases s
  cases u
  cases h
  simp_all [State.carry, State.withHost]

/-- The agent whose requests come on a port (60_exceptions.md R220). -/
def portSource : Port → Source
  | .main => .main
  | .isr => .isr
  | .rst => .rst

/-- The requests issued on a port. -/
def State.queue (s : State) : Port → List Issued
  | .main => s.mainQ
  | .isr => s.isrQ
  | .rst => s.rstQ

/-- `Performed s u t`: a step from `s`, the carriers used up giving `u`, may leave `t`. -/
inductive Performed (s u : State) : State → Prop where
  | request {t : State} (p : Port) (x : Issued) (q : List Issued) (turn : s.nextSource = portSource p)
      (head : s.queue p = x :: q) (free : p = .main → s.pendingTake = none ∧ s.obRstPend = none)
      (effect : Effect (decode (.request p x.record)) u t) : Performed s u t
  | delivery (m : Message) (turn : s.nextSource = .delivery) : Performed s u (u.deliverMessage m)
  | takeFinished (ch : Channel) (r : Bool) (turn : s.nextSource = .main) (pending : s.pendingTake = some (ch, r)) :
      Performed s u (dcTakeFinish ch r u)
  | evalFinished (c : WindowClass) (turn : s.nextSource = .main) (free : s.pendingTake = none)
      (pending : s.obRstPend = some c) : Performed s u (obEvalFinish c u)
  | idle : Performed s u u

/-- Everything a step that answers a next state can have done. -/
theorem step_performed {s t : State} (h : step s = .next t) :
    s.Live ∧ ∃ k : Carriers, (s.rxQ = [] → k.rxQ = []) ∧ Performed s (s.carry k) t := by
  obtain ⟨hlive, u, same, hrx, hcase⟩ := step_cases h
  obtain ⟨k, hk, rfl⟩ := same.exists_carry
  refine ⟨hlive, k, hk ▸ hrx, ?_⟩
  rcases hcase with ⟨x, q, hturn, htake, heval, hq, rfl⟩ | ⟨x, q, hturn, hq, rfl⟩ | ⟨x, q, hturn, hq, rfl⟩ |
    ⟨m, q, hturn, -, rfl⟩ | ⟨ch, r, hturn, hp, rfl⟩ | ⟨c, hturn, htake, hp, rfl⟩ | rfl
  · exact .request .main x q hturn hq (fun _ => ⟨htake, heval⟩) (effectOf_effect _ _)
  · exact .request .isr x q hturn hq nofun (effectOf_effect _ _)
  · exact .request .rst x q hturn hq nofun (effectOf_effect _ _)
  · exact .delivery m hturn
  · exact .takeFinished ch r hturn hp
  · exact .evalFinished c hturn htake hp
  · exact .idle

/-- A delivery is what an opcode row of the message does (40_codec.md R118). -/
theorem deliverMessage_effect (m : Message) (s : State) :
    Effect (.opcOther m.ctr m.fixed m.data) s (s.deliverMessage m) :=
  .opcOther m.ctr m.fixed m.data

end Sys2Proof.Machine

/-! SUPPORT. The invariants every step keeps (10_state.md R40, 41_frame_assembler.md R150 to R154, 20_memory.md R70,
42_debounce.md R172, 60_exceptions.md R211 to R213). -/

namespace Sys2Proof.Machine

/-! ### One induction step for every invariant -/

theorem nonePending_of_pendingTake {s : State} (htake : s.pendingTake = none) (heval : s.obRstPend = none) :
    Spec.NonePending s := by
  refine ⟨?_, heval⟩
  revert htake
  unfold State.pendingTake
  rcases s.dcTakePend with ⟨_ | _, _ | _, _ | _⟩ <;> simp [firstPending]

/-- `i` may be taken: MAIN takes a request only when none of its own is in progress (20_memory.md R70). -/
def FreeFor (i : Instr) (s : State) : Prop := ∀ op, Spec.opAndPort i = some (op, .main) → Spec.NonePending s

/-- A property of the registers, marks and outputs that every instruction and every second part keeps, every step
keeps. -/
theorem step_keeps {Inv : State → Prop} (carry : ∀ s k, Inv s → Inv (s.carry k))
    (effect : ∀ i s t, s.Live → FreeFor i s → Effect i s t → Inv s → Inv t)
    (take : ∀ ch r s, Inv s → Inv (dcTakeFinish ch r s)) (eval : ∀ c s, Inv s → Inv (obEvalFinish c s))
    (s t : State) (hinv : Inv s) (h : step s = .next t) : Inv t := by
  obtain ⟨hlive, k, -, hp⟩ := step_performed h
  have hk : Inv (s.carry k) := carry s k hinv
  cases hp with
  | request p x q turn head free he =>
    refine effect _ (s.carry k) t hlive ?_ he hk
    intro op hop
    have hport : p = .main := by
      have hp := (opAndPort_decodeRequest p x.record).symm.trans hop
      exact (Prod.mk.inj (Option.some.inj hp)).2
    obtain ⟨htake, heval⟩ := free hport
    exact nonePending_of_pendingTake htake heval
  | delivery m => exact effect (.opcOther m.ctr m.fixed m.data) (s.carry k) _ hlive nofun (deliverMessage_effect m _) hk
  | takeFinished ch r => exact take ch r _ hk
  | evalFinished c => exact eval c _ hk
  | idle => exact hk

/-! ### The frame assembler (10_state.md R40) -/

theorem getElem_captured_of_ne (buf : Frame) (count : BitVec 5) (b : Byte) {i : Nat} (hi : i < 19)
    (h : count.toNat ≠ i) : (captured buf count b)[i] = buf[i] :=
  Vector.getElem_setIfInBounds_ne hi h

theorem Effect.keeps_faInv {i : Instr} {s t : State} (h : Effect i s t) (hinv : s.FaInv) : t.FaInv := by
  cases h with
  | reset => exact ⟨fun _ => rfl, nofun⟩
  | faSynced b =>
    have hcount : (3#5).toNat = 3 := rfl
    refine ⟨nofun, fun _ => ⟨hcount.ge, hcount.trans_le (by decide), ?_, ?_, ?_⟩⟩ <;> simp
  | faStored b hm hmore =>
    obtain ⟨hmin, hmax, h0, h1, h2⟩ := hinv.2 hm
    have hcount : (BitVec.ofNat 5 (s.faCount.toNat + 1)).toNat = s.faCount.toNat + 1 :=
      Nat.mod_eq_of_lt (by omega)
    refine ⟨fun hs => absurd (hm.symm.trans hs) nofun, fun _ => ⟨?_, ?_, ?_, ?_, ?_⟩⟩
    · exact (Nat.le_succ_of_le hmin).trans_eq hcount.symm
    · exact hcount.trans_le (by omega)
    · exact (getElem_captured_of_ne _ _ _ (by decide) (by omega)).trans h0
    · exact (getElem_captured_of_ne _ _ _ (by decide) (by omega)).trans h1
    · exact (getElem_captured_of_ne _ _ _ (by decide) (by omega)).trans h2
  | faCompleted => exact ⟨fun _ => rfl, nofun⟩
  | _ => exact hinv

/-! ### The widths (00_scope.md R9, R15) -/

theorem seen_lt (s : State) (now : Nat) : Spec.seen s now < 2 ^ s.config.timeW := Nat.mod_lt _ (Nat.two_pow_pos _)

theorem Effect.keeps_widthInv {i : Instr} {s t : State} (h : Effect i s t) (hinv : s.WidthInv) : t.WidthInv := by
  obtain ⟨hopen, hclose, hlight, hhigh, heval, hlow⟩ := hinv
  cases h with
  | reset =>
    have hpos := Nat.two_pow_pos s.config.timeW
    exact ⟨hpos, hpos, hpos, hpos, hpos, Nat.two_pow_pos s.config.lowCountW⟩
  | dcFell ch now =>
    have hseen := seen_lt s now
    cases ch with
    | openContact => exact ⟨hseen, hclose, hlight, hhigh, heval, hlow⟩
    | closeContact => exact ⟨hopen, hseen, hlight, hhigh, heval, hlow⟩
    | lightContact => exact ⟨hopen, hclose, hseen, hhigh, heval, hlow⟩
  | obHigh now => exact ⟨hopen, hclose, hlight, seen_lt s now, heval, hlow⟩
  | obLow now => exact ⟨hopen, hclose, hlight, hhigh, heval, Nat.mod_lt _ (Nat.two_pow_pos _)⟩
  | obGated level now => exact ⟨hopen, hclose, hlight, hhigh, seen_lt s now, hlow⟩
  | _ => exact ⟨hopen, hclose, hlight, hhigh, heval, hlow⟩

theorem obEvalFinish_keeps_widthInv (c : WindowClass) (s : State) (hinv : s.WidthInv) :
    (obEvalFinish c s).WidthInv := by
  obtain ⟨hopen, hclose, hlight, hhigh, heval, -⟩ := hinv
  exact ⟨hopen, hclose, hlight, hhigh, heval, Nat.two_pow_pos _⟩

/-- Settles O44: the assembler's registers are written by RESET and FA_BYTE only, and every register of a parameter's
width is written with a value reduced to that width, or with 0. -/
theorem stepKeepsFaInvariant : Obligations.StepKeepsFaInvariant := by
  intro s t h
  constructor
  · intro hinv
    exact step_keeps (Inv := State.FaInv) (fun _ _ => id) (fun _ _ _ _ _ => Effect.keeps_faInv) (fun _ _ _ => id)
      (fun _ _ => id) s t hinv h
  · intro hinv
    exact step_keeps (Inv := State.WidthInv) (fun _ _ => id) (fun _ _ _ _ _ => Effect.keeps_widthInv)
      (fun _ _ _ => id) obEvalFinish_keeps_widthInv s t hinv h

/-! ### FA_SHIFT (41_frame_assembler.md R150, R152, R154) -/

theorem Effect.keeps_shiftInv {i : Instr} {s t : State} (h : Effect i s t) (hinv : s.ShiftInv) : t.ShiftInv := by
  cases h with
  | reset => exact ⟨nofun, nofun⟩
  | faScanned b hm hdiffers => exact ⟨fun h => absurd h hdiffers, fun h => absurd (hm.symm.trans h) nofun⟩
  | faSynced b => exact ⟨fun _ => rfl, fun _ => rfl⟩
  | faCompleted => exact ⟨nofun, nofun⟩
  | _ => exact hinv

/-- Settles O45: a match enters CAPTURING, completion and RESET clear FA_SHIFT, and while CAPTURING nothing shifts. -/
theorem stepKeepsShiftInvariant : Obligations.StepKeepsShiftInvariant :=
  step_keeps (Inv := State.ShiftInv) (fun _ _ => id) (fun _ _ _ _ _ => Effect.keeps_shiftInv) (fun _ _ _ => id)
    (fun _ _ => id)

/-! ### One MAIN request at a time (20_memory.md R70) -/

theorem pendingCount_eq_zero_iff (s : State) : s.pendingCount = 0 ↔ Spec.NonePending s := by
  unfold State.pendingCount Spec.NonePending
  rcases s.dcTakePend with ⟨_ | _, _ | _, _ | _⟩ <;> cases s.obRstPend <;> simp

theorem pendingCount_dcTakeRead {s : State} (hs : Spec.NonePending s) (ch : Channel) :
    (dcTakeRead ch s).pendingCount = 1 := by
  obtain ⟨htake, heval⟩ := hs
  simp only [State.pendingCount, dcTakeRead, State.setTakePend_dcTakePend, State.setTakePend_obRstPend, htake, heval]
  cases ch <;> rfl

theorem pendingCount_obEvalClassify {s : State} (hs : Spec.NonePending s) (c : WindowClass) (now : Nat) :
    (obEvalClassify c now s).pendingCount = 1 := by
  have htake : (obEvalClassify c now s).dcTakePend = ⟨none, none, none⟩ := hs.1
  rw [State.pendingCount, htake]
  rfl

/-- Part 2 of DC_TAKE takes the mark of its channel off the count. -/
theorem pendingCount_dcTakeFinish (ch : Channel) (r : Bool) (s : State) :
    (dcTakeFinish ch r s).pendingCount + (s.dcTakePend.get ch).toList.length = s.pendingCount := by
  rw [dcTakeFinish_eq]
  cases ch <;> simp only [State.pendingCount, PerChannel.set, PerChannel.get, Option.toList_none, List.length_nil] <;>
    omega

/-- Part 2 of OB_EVAL takes its mark off the count. -/
theorem pendingCount_obEvalFinish (c : WindowClass) (s : State) :
    (obEvalFinish c s).pendingCount + s.obRstPend.toList.length = s.pendingCount := by
  rw [obEvalFinish_eq]
  simp only [State.pendingCount, Option.toList_none, List.length_nil]
  omega

theorem Effect.keeps_pendInv {i : Instr} {s t : State} (h : Effect i s t) (hfree : FreeFor i s) (hinv : s.PendInv) :
    t.PendInv := by
  cases h with
  | reset => exact Nat.zero_le 1
  | dcRead ch => exact (pendingCount_dcTakeRead (hfree _ rfl) ch).le
  | obGated level now => exact (pendingCount_obEvalClassify (s := s.settle _) (hfree _ rfl) _ _).le
  | _ => exact hinv

/-- Settles O46: a mark is set only by a MAIN request, which MAIN takes only with none set. -/
theorem stepKeepsOneMainRequest : Obligations.StepKeepsOneMainRequest :=
  step_keeps (Inv := State.PendInv) (fun _ _ => id) (fun _ _ _ _ hfree he => he.keeps_pendInv hfree)
    (fun ch r s => (Nat.le.intro (pendingCount_dcTakeFinish ch r s)).trans)
    (fun c s => (Nat.le.intro (pendingCount_obEvalFinish c s)).trans)

/-! ### The startup guard (42_debounce.md R172) -/

theorem settled_eq_false_of_settledAfter {b : Bool} {now : Nat} (h : settledAfter b now = false) : b = false :=
  ((settledAfter_eq_false_iff b now).1 h).1

theorem PerChannel.set_all {α : Type} (a : α) (ch : Channel) : (PerChannel.all a).set ch a = .all a := by
  cases ch <;> rfl

theorem Effect.keeps_guardInv {i : Instr} {s t : State} (h : Effect i s t) (hinv : s.GuardInv) : t.GuardInv := by
  cases h with
  | reset => exact fun _ => ⟨rfl, rfl, nofun, nofun, nofun⟩
  | dcFell ch now past | dcLatched ch now past => exact fun hs => absurd (past.symm.trans hs) nofun
  | dcGuarded | dcRejected | obHigh | obLow | obNotDue | obGated =>
    exact fun hs => hinv (settled_eq_false_of_settledAfter hs)
  | dcRead ch =>
    intro hs
    obtain ⟨hfall, hlatch, hopen, hclose, hlight⟩ := hinv hs
    refine ⟨hfall, hlatch, ?_⟩
    rw [dcTakeRead, hlatch, PerChannel.get_all]
    cases ch with
    | openContact => exact ⟨nofun, hclose, hlight⟩
    | closeContact => exact ⟨hopen, nofun, hlight⟩
    | lightContact => exact ⟨hopen, hclose, nofun⟩
  | _ => exact hinv

theorem dcTakeFinish_keeps_guardInv (ch : Channel) (r : Bool) (s : State) (hinv : s.GuardInv) :
    (dcTakeFinish ch r s).GuardInv := by
  rw [dcTakeFinish_eq]
  intro hs
  obtain ⟨hfall, hlatch, hopen, hclose, hlight⟩ := hinv hs
  refine ⟨hfall, ?_, ?_⟩
  · simp only [hlatch, PerChannel.set_all, ite_self]
  · cases ch with
    | openContact => exact ⟨nofun, hclose, hlight⟩
    | closeContact => exact ⟨hopen, nofun, hlight⟩
    | lightContact => exact ⟨hopen, hclose, nofun⟩

/-- Settles O47: what writes a falling edge or a latch has found the guard over, and DC_TAKE reads a latch that is 0. -/
theorem stepKeepsGuardInvariant : Obligations.StepKeepsGuardInvariant :=
  step_keeps (Inv := State.GuardInv) (fun _ _ => id) (fun _ _ _ _ _ => Effect.keeps_guardInv)
    dcTakeFinish_keeps_guardInv (fun _ _ => id)

/-! ### The marks (60_exceptions.md R211 to R213) -/

theorem markInv_raise {s : State} (hs : s.Live) {f : FaultMark} (hf : f.outOfRange = true) : (s.raise f).MarkInv := by
  simp [State.MarkInv, hs.1, hs.2, hf]

theorem markInv_refuse {s : State} (hs : s.Live) (why : RefuseReason) {i : Instr} (hi : i.wellFormed = false) :
    (s.refuse why i).MarkInv := by
  simp [State.MarkInv, hs.1, hs.2, hi]

theorem Effect.keeps_markInv {i : Instr} {s t : State} (h : Effect i s t) (hs : s.Live) (hinv : s.MarkInv) :
    t.MarkInv := by
  cases h with
  | refused why ill => exact markInv_refuse hs why ill
  | ctrFaulted v range => exact markInv_raise hs (decide_eq_true range)
  | _ => exact hinv

/-- Settles O48: a step is taken with both marks empty, and what it records is deserved. -/
theorem stepKeepsMarkInvariant : Obligations.StepKeepsMarkInvariant :=
  step_keeps (Inv := State.MarkInv) (fun _ _ => id) (fun _ _ _ hs _ he => he.keeps_markInv hs) (fun _ _ _ => id)
    (fun _ _ => id)

end Sys2Proof.Machine

/-! SUPPORT. The encoder and the decoder are inverse, through records and messages and through their bytes
(30_encoding.md sections 1, 2 and 4). -/

namespace Sys2Proof.Machine

/-! ### Instructions and inputs -/

theorem bit_ofBool (b : Bool) : bit (BitVec.ofBool b) = b := by
  cases b <;> rfl

theorem fixed_fields_messageOf (opc : ProtoOpcode) (c : Counter) (hi : BitVec 4) (lo : BitVec 32) (d : BitVec 24) :
    (messageOf opc c hi lo d).fixed.extractLsb' 36 4 = hi ∧ (messageOf opc c hi lo d).fixed.extractLsb' 0 32 = lo ∧
      (messageOf opc c hi lo d).data.extractLsb' 8 24 = d := by
  refine ⟨?_, ?_, ?_⟩
  · exact (BitVec.extractLsb'_append_eq_of_le (by decide)).trans
      ((BitVec.extractLsb'_append_eq_of_le (by decide)).trans BitVec.extractLsb'_eq_self)
  · exact (BitVec.extractLsb'_append_eq_of_add_le (by decide)).trans BitVec.extractLsb'_eq_self
  · exact (BitVec.extractLsb'_append_eq_of_le (by decide)).trans BitVec.extractLsb'_eq_self

/-- A message made around an opcode decodes by the class of that opcode, with the bits it was made of. -/
theorem decodeMessage_messageOf (opc : ProtoOpcode) (c : Counter) (hi : BitVec 4) (lo : BitVec 32) (d : BitVec 24) :
    decodeMessage (messageOf opc c hi lo d) =
      match cls opc with
      | .status => .opcStatus c hi lo d
      | .lightEvt => .opcLightEvt c hi lo d
      | .idle => .opcIdle c hi lo d
      | .motion => .opcMotion c hi lo d
      | .other => .opcOther c (messageOf opc c hi lo d).fixed (messageOf opc c hi lo d).data := by
  obtain ⟨hhi, hlo, hd⟩ := fixed_fields_messageOf opc c hi lo d
  rw [decodeMessage, Laws.OpBits.protoOpcode_messageOf, hhi, hlo, hd]
  rfl

theorem decodeMessage_other {m : Message} (h : cls (protoOpcode m.fixed m.data) = .other) :
    decodeMessage m = .opcOther m.ctr m.fixed m.data := by
  rw [decodeMessage, h]

/-- Settles O1: a request has its op and its fields in the record it is spelled by, and a message its class. -/
theorem decodeInvertsEncode : Obligations.DecodeInvertsEncode := by
  intro i hencodable
  cases i with
  | opcStatus c hi lo d | opcLightEvt c hi lo d | opcIdle c hi lo d | opcMotion c hi lo d =>
    exact decodeMessage_messageOf _ c hi lo d
  | opcOther c f d => exact decodeMessage_other (m := ⟨c, f, d⟩) (eq_of_beq hencodable)
  | ctrLoad p b v | enc p v d b | dcEdge p v b n | obEdge p b n | obEval p b n =>
    simp [encode, decode, decodeRequest, blankRecord, bit_ofBool]
  | _ => rfl

/-! ### Numbers and their bytes, least significant byte first -/

theorem length_leBytes (n w : Nat) : (leBytes n w).length = n := by
  induction n generalizing w with
  | zero => rfl
  | succ n ih => rw [leBytes, List.length_cons, ih]

theorem leNat_leBytes (n w : Nat) : leNat (leBytes n w) = w % 256 ^ n := by
  induction n generalizing w with
  | zero => rw [pow_zero, Nat.mod_one]; rfl
  | succ n ih =>
    rw [leBytes, leNat, ih, BitVec.toNat_ofNat, Nat.pow_succ' (n := n), Nat.mod_mul]

/-- `n` bytes hold a bit vector of 8 n bits. -/
theorem ofNat_leNat_leBytes {w : Nat} (n : Nat) (hw : 256 ^ n = 2 ^ w) (x : BitVec w) :
    BitVec.ofNat w (leNat (leBytes n x.toNat)) = x := by
  rw [leNat_leBytes, hw, Nat.mod_eq_of_lt x.isLt, BitVec.ofNat_toNat, BitVec.setWidth_eq]

/-- The bytes of the time input hold every time of its width. -/
theorem leNat_leBytes_nowBytes {timeW now : Nat} (h : now < 2 ^ timeW) :
    leNat (leBytes (nowBytes timeW) now) % 2 ^ timeW = now := by
  have hwidth : 2 ^ timeW ≤ 256 ^ nowBytes timeW := by
    rw [show 256 = 2 ^ 8 from rfl, ← Nat.pow_mul]
    exact Nat.pow_le_pow_right (by decide) (by unfold nowBytes; omega)
  rw [leNat_leBytes, Nat.mod_eq_of_lt (h.trans_le hwidth), Nat.mod_eq_of_lt h]

/-! ### A record and its bytes (log entry 11) -/

/-- The two fields that stand above `fixed` in a record's bits. -/
theorem extractLsb'_value_data_fixed (v : BitVec 32) (d : Data) (f : Fixed) :
    (v ++ d ++ f).extractLsb' 40 32 = d ∧ (v ++ d ++ f).extractLsb' 72 32 = v := by
  constructor
  · exact (BitVec.extractLsb'_append_eq_of_le (by decide)).trans
      ((BitVec.extractLsb'_append_eq_of_add_le (by decide)).trans BitVec.extractLsb'_eq_self)
  · exact (BitVec.extractLsb'_append_eq_of_le (by decide)).trans
      ((BitVec.extractLsb'_append_eq_of_le (by decide)).trans BitVec.extractLsb'_eq_self)

theorem recordOfBits_recordToBits (r : Record) : recordOfBits (recordToBits r) r.frame r.now = r := by
  cases r
  simp [recordOfBits, recordToBits, BitVec.extractLsb'_append_eq_of_le, BitVec.extractLsb'_append_eq_of_add_le,
    BitVec.extractLsb'_eq_self, extractLsb'_value_data_fixed]

theorem length_recordToBytes (timeW : Nat) (r : Record) : (recordToBytes timeW r).length = recordBytes timeW := by
  simp only [recordToBytes, recordBytes, List.length_append, length_leBytes, Vector.length_toList, headBytes,
    Config.frameLen, fixedBytes, Nat.reduceAdd]

theorem recordOfBytes_recordToBytes {timeW : Nat} {r : Record} (h : r.now < 2 ^ timeW) :
    recordOfBytes timeW (recordToBytes timeW r) = r := by
  have hhead : (recordToBytes timeW r).take headBytes = leBytes headBytes (recordToBits r).toNat := by
    rw [recordToBytes, List.append_assoc, List.take_left' (length_leBytes _ _)]
  have htime : (recordToBytes timeW r).drop fixedBytes = leBytes (nowBytes timeW) r.now :=
    List.drop_left' (by rw [List.length_append, length_leBytes, Vector.length_toList]; rfl)
  have hframe : (Vector.ofFn fun i : Fin 19 => (recordToBytes timeW r).getD (headBytes + i.val) 0) = r.frame := by
    apply Vector.ext
    intro i hi
    have hlen : i < r.frame.toList.length := by simpa using hi
    simp [recordToBytes, List.getElem?_append_right, List.getElem?_append_left hlen, length_leBytes,
      Vector.getElem?_eq_getElem hi]
  rw [recordOfBytes, hhead, htime, leNat_leBytes_nowBytes h, ofNat_leNat_leBytes headBytes (by norm_num)]
  exact (congrArg (recordOfBits (recordToBits r) · r.now) hframe).trans (recordOfBits_recordToBits r)

/-! ### A message and its bytes (log entry 14) -/

theorem fixed_parts (f : Fixed) : f.extractLsb' 36 4 ++ f.extractLsb' 32 4 ++ f.extractLsb' 0 32 = f := by
  have hhigh : f.extractLsb' 36 4 ++ f.extractLsb' 32 4 = f.extractLsb' 32 8 :=
    BitVec.extractLsb'_append_extractLsb'_eq_extractLsb' rfl
  rw [hhigh]
  exact BitVec.extractLsb'_append_extractLsb' (w := 8) (len := 32)

theorem data_parts (d : Data) : d.extractLsb' 8 24 ++ d.extractLsb' 0 8 = d :=
  BitVec.extractLsb'_append_extractLsb' (w := 24) (len := 8)

theorem messageOfBits_messageToBits (m : Message) : messageOfBits (messageToBits m) = m := by
  cases m
  simp [messageOfBits, messageToBits, BitVec.extractLsb'_append_eq_of_le, BitVec.extractLsb'_append_eq_of_add_le,
    BitVec.extractLsb'_eq_self, fixed_parts, data_parts]

/-! ### The byte forms of an instruction -/

/-- A request is encoded as a record that came on its own port, with its own time. -/
theorem encode_request {i : Instr} {op : OpField} {p : Port} (h : Spec.opAndPort i = some (op, p)) :
    ∃ r, encode i = .request p r ∧ (i.timestamp = none → r.now = 0) ∧
      (∀ now, i.timestamp = some now → r.now = now) := by
  cases i with
  | opcStatus | opcLightEvt | opcIdle | opcMotion | opcOther => cases h
  | dcEdge | obEdge | obEval => cases h; exact ⟨_, rfl, nofun, fun _ h => Option.some.inj h⟩
  | _ => cases h; exact ⟨_, rfl, fun _ => rfl, nofun⟩

theorem encode_message {i : Instr} (h : Spec.opAndPort i = none) : ∃ m, encode i = .message m := by
  cases i with
  | opcStatus | opcLightEvt | opcIdle | opcMotion | opcOther => exact ⟨_, rfl⟩
  | _ => cases h

theorem decodeBytes_recordToBytes {timeW : Nat} (p : Port) {r : Record} (h : r.now < 2 ^ timeW) :
    decodeBytes timeW p (recordToBytes timeW r) = .ok (decode (.request p r)) := by
  rw [decodeBytes, if_pos (length_recordToBytes timeW r), recordOfBytes_recordToBytes h]

theorem decodeMessageBytes_messageToBits (m : Message) :
    decodeMessageBytes (leBytes messageBytes (messageToBits m).toNat) = .ok (decode (.message m)) := by
  rw [decodeMessageBytes, if_pos (length_leBytes _ _), ofNat_leNat_leBytes messageBytes (by norm_num),
    messageOfBits_messageToBits]

/-- Settles O2: the bytes of an input give the input back, and the input the instruction. -/
theorem byteDecodeInvertsByteEncode : Obligations.ByteDecodeInvertsByteEncode := by
  intro timeW i hencodable htime
  have hdecode := decodeInvertsEncode i hencodable
  constructor
  · intro op p hreq
    obtain ⟨r, hr, hnone, hsome⟩ := encode_request hreq
    have hnow : r.now < 2 ^ timeW := by
      cases ht : i.timestamp with
      | none => rw [hnone ht]; exact Nat.two_pow_pos timeW
      | some now => rw [hsome now ht]; exact htime now ht
    rw [hr] at hdecode
    rw [encodeBytes, hr, ← hdecode]
    exact decodeBytes_recordToBytes p hnow
  · intro hmsg
    obtain ⟨m, hm⟩ := encode_message hmsg
    rw [hm] at hdecode
    rw [encodeBytes, hm, ← hdecode]
    exact decodeMessageBytes_messageToBits m

end Sys2Proof.Machine

/-! SUPPORT. Who writes what: the frames of units, agents and channels, the responses of a request, and the writers of
CTR, OBST and SETTLED (10_state.md R36, 30_encoding.md R87). -/

namespace Sys2Proof.Machine

/-! ### Frames of whole units (10_state.md R36, 41_frame_assembler.md R156) -/

/-- Everything an instruction can do to CTR (10_state.md R21). -/
theorem Effect.ctr_cases {i : Instr} {s t : State} (h : Effect i s t) :
    t.ctr = s.ctr ∨ (∃ f d, i = .enc .main f d false ∧ t.ctr = s.ctr + 1) ∨ (∃ b v, i = .ctrLoad .main b v) ∨
      (i = .reset .rst ∧ t.ctr = 0) := by
  cases h with
  | reset => exact .inr (.inr (.inr ⟨rfl, rfl⟩))
  | ctrCleared | ctrLoaded => exact .inr (.inr (.inl ⟨_, _, rfl⟩))
  | enc f d hold =>
    cases hold with
    | true => exact .inl rfl
    | false => exact .inr (.inl ⟨f, d, rfl, rfl⟩)
  | _ => exact .inl rfl

/-- Settles O34: no outcome of a codec request writes a register of another unit, and two of them write CTR. -/
theorem codecRequestsLeaveOtherUnits : Obligations.CodecRequestsLeaveOtherUnits := by
  intro s t i p hi h
  have hctr : (∀ f d, i ≠ .enc p f d false) → (∀ b v, i ≠ .ctrLoad p b v) → t.ctr = s.ctr := by
    intro henc hload
    rcases (exec_effect h).ctr_cases with hsame | ⟨f, d, rfl, -⟩ | ⟨b, v, rfl⟩ | ⟨rfl, -⟩
    · exact hsame
    · rcases hi with ⟨_, _, e⟩ | e | ⟨_, _, _, e⟩ | ⟨_, e⟩ <;> cases e
      exact absurd rfl (henc f d)
    · rcases hi with ⟨_, _, e⟩ | e | ⟨_, _, _, e⟩ | ⟨_, e⟩ <;> cases e
      exact absurd rfl (hload b v)
    · rcases hi with ⟨_, _, e⟩ | e | ⟨_, _, _, e⟩ | ⟨_, e⟩ <;> cases e
  rcases hi with ⟨b, v, rfl⟩ | rfl | ⟨f, d, hold, rfl⟩ | ⟨fr, rfl⟩ <;> cases exec_effect h <;>
    exact ⟨rfl, rfl, rfl, rfl, rfl, rfl, rfl, rfl, rfl, rfl, rfl, rfl, rfl, rfl, hctr⟩

/-- Settles O35: no outcome of FA_BYTE writes a register outside the assembler. -/
theorem faByteLeavesOtherUnits : Obligations.FaByteLeavesOtherUnits := by
  intro s t p b h
  cases exec_effect h <;> exact ⟨rfl, rfl, rfl, rfl, rfl, rfl, rfl, rfl, rfl, rfl, rfl⟩

theorem contactFrame_dcTakeFinish (ch : Channel) (r : Bool) (s : State) :
    Spec.ContactFrame s (dcTakeFinish ch r s.advance) := by
  simp [Spec.ContactFrame, dcTakeFinish_eq]

theorem obstructionFrame_obEvalFinish (c : WindowClass) (s : State) :
    Spec.ObstructionFrame s (obEvalFinish c s.advance) := by
  simp [Spec.ObstructionFrame, obEvalFinish_eq]

/-- Settles O36: no outcome of a sensor request, and neither second part, writes a register of another unit. -/
theorem sensorRequestsLeaveOtherUnits : Obligations.SensorRequestsLeaveOtherUnits := by
  intro s t i p
  refine ⟨fun hi h => ?_, fun hi h => ?_, fun ch r hturn hcount hp h => ?_, fun c hturn hcount hp h => ?_⟩
  · rcases hi with ⟨ch, level, now, rfl⟩ | ⟨ch, rfl⟩ <;> cases exec_effect h <;>
      exact ⟨rfl, rfl, rfl, rfl, rfl, rfl, rfl, rfl, rfl, rfl, rfl, rfl⟩
  · rcases hi with ⟨level, now, rfl⟩ | ⟨level, now, rfl⟩ <;> cases exec_effect h <;>
      simp [Spec.ObstructionFrame, obEvalClassify]
  · rw [step_finishes_pendingTake (step_performed h).1 hturn (pendingTake_of_get hcount hp)] at h
    obtain rfl := Host.Outcome.next.inj h
    exact contactFrame_dcTakeFinish ch r s
  · rw [step_finishes_pendingEval (step_performed h).1 hturn (pendingTake_of_obRstPend hcount hp) hp] at h
    obtain rfl := Host.Outcome.next.inj h
    exact obstructionFrame_obEvalFinish c s

/-! ### Frames of whole agents (10_state.md R36) -/

theorem settledAfter_of_settled {b : Bool} (now : Nat) (h : b = true) : settledAfter b now = true :=
  (settledAfter_eq_true_iff b now).2 (.inl h)

/-- An element of a channel register after a write to some channel. -/
theorem PerChannel.get_set {α : Type} (v : PerChannel α) (ch c : Channel) (a : α) :
    (v.set ch a).get c = if c = ch then a else v.get c := by
  split_ifs with h
  · rw [h, PerChannel.get_set_same]
  · exact PerChannel.get_set_ne v h a

theorem Effect.isrFrame {i : Instr} {s t : State} {op : OpField} (h : Effect i s t)
    (hi : Spec.opAndPort i = some (op, .isr)) : Spec.IsrFrame s t := by
  cases h with
  | refused => exact ⟨rfl, rfl, rfl, rfl, rfl, rfl, rfl, rfl, rfl, rfl, rfl, rfl, rfl, fun _ => id, id⟩
  | dcGuarded | dcFell | dcRejected | obHigh | obLow =>
    exact ⟨rfl, rfl, rfl, rfl, rfl, rfl, rfl, rfl, rfl, rfl, rfl, rfl, rfl, fun _ => id, settledAfter_of_settled _⟩
  | dcLatched ch =>
    refine ⟨rfl, rfl, rfl, rfl, rfl, rfl, rfl, rfl, rfl, rfl, rfl, rfl, rfl, fun c hc => ?_, settledAfter_of_settled _⟩
    refine (PerChannel.get_set s.dcLatch ch c true).trans ?_
    rw [hc, ite_self]
  | _ => cases hi

theorem Effect.mainFrame {i : Instr} {s t : State} {op : OpField} (h : Effect i s t)
    (hi : Spec.opAndPort i = some (op, .main)) : Spec.MainFrame s t := by
  cases h with
  | reset | dcGuarded | dcFell | dcRejected | dcLatched | obHigh | obLow => cases hi
  | opcStatus | opcLightEvt | opcIdle | opcMotion | opcOther => cases hi
  | obNotDue | obGated => exact ⟨rfl, rfl, rfl, rfl, fun _ => id, .inl rfl, settledAfter_of_settled _⟩
  | _ => exact ⟨rfl, rfl, rfl, rfl, fun _ => id, .inl rfl, id⟩

/-- Part 2 of DC_TAKE writes its channel's latch with 0 or with what it was. -/
theorem mainFrame_dcTakeFinish (ch : Channel) (r : Bool) (s : State) : Spec.MainFrame s (dcTakeFinish ch r s) := by
  rw [dcTakeFinish_eq]
  refine ⟨rfl, rfl, rfl, rfl, fun c hc => ?_, .inl rfl, id⟩
  simp only [apply_ite (PerChannel.get · c), PerChannel.get_set] at hc
  split_ifs at hc <;> simp_all

theorem mainFrame_obEvalFinish (c : WindowClass) (s : State) : Spec.MainFrame s (obEvalFinish c s) :=
  ⟨rfl, rfl, rfl, rfl, fun _ => id, .inr rfl, id⟩

theorem Performed.isrFrame {s u t : State} (h : Performed s u t) (hturn : s.nextSource = .isr) :
    Spec.IsrFrame u t := by
  cases h with
  | request p x q turn head free effect =>
    have hsource := turn.symm.trans hturn
    cases p with
    | isr => exact effect.isrFrame (opAndPort_decodeRequest .isr x.record)
    | main | rst => cases hsource
  | idle => exact ⟨rfl, rfl, rfl, rfl, rfl, rfl, rfl, rfl, rfl, rfl, rfl, rfl, rfl, fun _ => id, id⟩
  | delivery _ turn | takeFinished _ _ turn | evalFinished _ turn => exact absurd (turn.symm.trans hturn) nofun

theorem Performed.mainFrame {s u t : State} (h : Performed s u t) (hturn : s.nextSource = .main) :
    Spec.MainFrame u t := by
  cases h with
  | request p x q turn head free effect =>
    have hsource := turn.symm.trans hturn
    cases p with
    | main => exact effect.mainFrame (opAndPort_decodeRequest .main x.record)
    | isr | rst => cases hsource
  | delivery _ turn => exact absurd (turn.symm.trans hturn) nofun
  | takeFinished ch r => exact mainFrame_dcTakeFinish ch r u
  | evalFinished c => exact mainFrame_obEvalFinish c u
  | idle => exact ⟨rfl, rfl, rfl, rfl, fun _ => id, .inl rfl, id⟩

/-- Settles O37: each outcome of a request on an agent's port, and of a step of that agent, keeps the agent's frame. -/
theorem agentsWriteOnlyTheirOwn : Obligations.AgentsWriteOnlyTheirOwn := by
  intro s t
  constructor
  · intro i op p hi h
    exact ⟨fun hp => (exec_effect h).isrFrame (hp ▸ hi), fun hp => (exec_effect h).mainFrame (hp ▸ hi)⟩
  · intro h
    obtain ⟨-, k, -, hp⟩ := step_performed h
    exact ⟨hp.isrFrame, hp.mainFrame⟩

/-! ### Channels (42_debounce.md R170) -/

theorem dcEdgeEffect_other_channel (level : Bool) {ch c : Channel} (hc : c ≠ ch) (now : Nat) (s : State) :
    (dcEdgeEffect level ch now s).dcFallTs.get c = s.dcFallTs.get c ∧
      (dcEdgeEffect level ch now s).dcLatch.get c = s.dcLatch.get c := by
  unfold dcEdgeEffect
  split_ifs <;> simp [PerChannel.get_set_ne _ hc]

/-- What an edge does to its channel, to SETTLED and to the responses depends on that channel and SETTLED only. -/
theorem dcEdgeEffect_congr {s s' : State} {ch : Channel} (hfall : s.dcFallTs.get ch = s'.dcFallTs.get ch)
    (hlatch : s.dcLatch.get ch = s'.dcLatch.get ch) (hsettled : s.settled = s'.settled) (hconfig : s.config = s'.config)
    (level : Bool) (now : Nat) :
    (dcEdgeEffect level ch now s).dcFallTs.get ch = (dcEdgeEffect level ch now s').dcFallTs.get ch ∧
      (dcEdgeEffect level ch now s).dcLatch.get ch = (dcEdgeEffect level ch now s').dcLatch.get ch ∧
      (dcEdgeEffect level ch now s).settled = (dcEdgeEffect level ch now s').settled ∧
      (dcEdgeEffect level ch now s).isrResp.drop s.isrResp.length =
        (dcEdgeEffect level ch now s').isrResp.drop s'.isrResp.length := by
  unfold dcEdgeEffect
  rw [← hsettled, ← hconfig, ← hfall]
  split_ifs <;> simp [hfall, hlatch, hsettled]

/-- Settles O38: DC_EDGE's body reads its own channel, SETTLED and the parameters, and writes its own channel. -/
theorem channelsAreIndependent : Obligations.ChannelsAreIndependent := by
  intro s s' t t' ch level now hfall hlatch hsettled hconfig h h'
  have hs := ((exec_eq_next_iff _ s t).1 h).1
  have hs' := ((exec_eq_next_iff _ s' t').1 h').1
  rw [exec_dcEdge_isr hs] at h
  rw [exec_dcEdge_isr hs', Spec.seen, ← hconfig] at h'
  obtain rfl := Host.Outcome.next.inj h
  obtain rfl := Host.Outcome.next.inj h'
  obtain ⟨h1, h2, h3, h4⟩ := dcEdgeEffect_congr hfall hlatch hsettled hconfig level (Spec.seen s now)
  exact ⟨h1, h2, h3, h4, fun c hc => dcEdgeEffect_other_channel level hc (Spec.seen s now) s⟩

/-! ### Responses (30_encoding.md R87) -/

/-- Settles O39: each outcome of a well-formed request responds once, or marks itself pending, or records a fault. -/
theorem oneResponsePerRequest : Obligations.OneResponsePerRequest := by
  intro s t i op p hi hwf hnone h
  have hcount : s.pendingCount = 0 := (pendingCount_eq_zero_iff s).2 hnone
  cases exec_effect h with
  | refused why ill => exact absurd (ill.symm.trans hwf) nofun
  | reset => cases hi; exact ⟨nofun, nofun, fun _ => ⟨rfl, rfl⟩⟩
  | dcGuarded | dcFell | dcLatched | dcRejected | obHigh | obLow =>
    cases hi
    exact ⟨fun _ => ⟨⟨_, rfl⟩, rfl, hcount⟩, nofun, nofun⟩
  | ctrFaulted v =>
    cases hi
    exact ⟨nofun, fun _ => ⟨rfl, .inr (.inr ⟨rfl, hcount, by simp⟩)⟩, nofun⟩
  | dcRead ch =>
    cases hi
    exact ⟨nofun, fun _ => ⟨rfl, .inr (.inl ⟨rfl, pendingCount_dcTakeRead hnone ch, rfl⟩)⟩, nofun⟩
  | obGated level now =>
    cases hi
    have hpend := pendingCount_obEvalClassify (s := s.settle (Spec.seen s now)) hnone
      (s.windowClass level now) (Spec.seen s now)
    exact ⟨nofun, fun _ => ⟨rfl, .inr (.inl ⟨rfl, hpend, rfl⟩)⟩, nofun⟩
  | opcStatus | opcLightEvt | opcIdle | opcMotion | opcOther => cases hi
  | _ =>
    cases hi
    exact ⟨nofun, fun _ => ⟨rfl, .inl ⟨⟨_, rfl⟩, hcount, rfl⟩⟩, nofun⟩

/-! ### Writers of CTR, OBST and SETTLED -/

/-- A step that changes CTR, OBST or SETTLED took a request. -/
theorem step_takes_request {s t : State} (h : step s = .next t)
    (hne : t.ctr ≠ s.ctr ∨ t.obst ≠ s.obst ∨ t.settled ≠ s.settled) :
    ∃ k p x q, s.nextSource = portSource p ∧ s.queue p = x :: q ∧
      Effect (decode (.request p x.record)) (s.carry k) t := by
  obtain ⟨-, k, -, hp⟩ := step_performed h
  cases hp with
  | request p x q turn head free effect => exact ⟨k, p, x, q, turn, head, effect⟩
  | delivery | takeFinished | evalFinished | idle =>
    rcases hne with hne | hne | hne <;> exact absurd rfl hne

/-- The port of a decoded request is the one it came on. -/
theorem port_of_decode {p q : Port} {r : Record} {i : Instr} {op : OpField} (h : decode (.request p r) = i)
    (hi : Spec.opAndPort i = some (op, q)) : p = q := by
  subst h
  have hp := (opAndPort_decodeRequest p r).symm.trans hi
  exact (Prod.mk.inj (Option.some.inj hp)).2

/-- Settles O42: CTR's writers among the outcomes, each taken from its own port's queue. -/
theorem ctrHasThreeWriters : Obligations.CtrHasThreeWriters := by
  intro s t h hne
  obtain ⟨k, p, x, q, turn, head, effect⟩ := step_takes_request h (.inl hne)
  rcases effect.ctr_cases with hsame | ⟨f, d, hi, ht⟩ | ⟨b, v, hi⟩ | ⟨hi, ht⟩
  · exact absurd hsame hne
  · obtain rfl := port_of_decode hi rfl
    exact .inl ⟨x, q, turn, head, .inl ⟨f, d, hi, ht⟩⟩
  · obtain rfl := port_of_decode hi rfl
    exact .inl ⟨x, q, turn, head, .inr ⟨b, v, hi⟩⟩
  · obtain rfl := port_of_decode hi rfl
    exact .inr ⟨x, q, turn, head, hi, ht⟩

/-- Only RESET clears SETTLED (42_debounce.md R177). -/
theorem Effect.settled_cases {i : Instr} {s t : State} (h : Effect i s t) (hs : s.settled = true) :
    t.settled = true ∨ i = .reset .rst := by
  cases h with
  | reset => exact .inr rfl
  | dcGuarded | dcFell | dcLatched | dcRejected | obHigh | obLow | obNotDue | obGated =>
    exact .inl (settledAfter_of_settled _ hs)
  | _ => exact .inl hs

/-- Settles O41: the step took a request, and of the outcomes only RESET's clears SETTLED. -/
theorem onlyResetClearsSettled : Obligations.OnlyResetClearsSettled := by
  intro s t h hs ht
  have hne : t.settled ≠ s.settled := by rw [hs, ht]; decide
  obtain ⟨k, p, x, q, turn, head, effect⟩ := step_takes_request h (.inr (.inr hne))
  rcases effect.settled_cases hs with hset | hi
  · exact absurd (ht.symm.trans hset) nofun
  · obtain rfl := port_of_decode hi rfl
    exact ⟨x, q, turn, head, hi⟩

/-- Everything an instruction can do to OBST (43_obstruction.md R192, R194). -/
theorem Effect.obst_cases {i : Instr} {s t : State} (h : Effect i s t) :
    t.obst = s.obst ∨ (i = .reset .rst ∧ t.obst = .unknown) ∨
      ∃ level now, i = .obEval .main level now ∧ 50 < Spec.since s now s.obLastEvalTs ∧
        t.obst = obstAfter s.obst (s.windowClass level now) ∧ t.obLastEvalTs = Spec.seen s now := by
  cases h with
  | reset => exact .inr (.inl ⟨rfl, rfl⟩)
  | obGated level now gate => exact .inr (.inr ⟨level, now, rfl, gate, rfl, rfl⟩)
  | _ => exact .inl rfl

/-- What OBST becomes under a class is its old value, CLEAR or OBSTRUCTED. -/
theorem obstAfter_cases (o : Obstruction) (c : WindowClass) :
    obstAfter o c = o ∨ obstAfter o c = .clear ∨ (obstAfter o c = .obstructed ∧ c = .setObstructed) := by
  cases c with
  | setClear => exact .inr (.inl rfl)
  | setObstructed => exact .inr (.inr ⟨rfl, rfl⟩)
  | asleep | noClass => exact .inl rfl

/-- Settles O40: of the outcomes only RESET's and a gated OB_EVAL's write OBST. -/
theorem obstHasOneWriter : Obligations.ObstHasOneWriter := by
  intro s t h hne
  obtain ⟨k, p, x, q, turn, head, effect⟩ := step_takes_request h (.inr (.inl hne))
  rcases effect.obst_cases with hsame | ⟨hi, ht⟩ | ⟨level, now, hi, gate, ht, -⟩
  · exact absurd hsame hne
  · obtain rfl := port_of_decode hi rfl
    exact .inr ⟨x, q, turn, head, hi, ht⟩
  · obtain rfl := port_of_decode hi rfl
    refine .inl ⟨x, q, level, now, turn, head, hi, gate, ?_⟩
    rcases obstAfter_cases s.obst (s.windowClass level now) with hold | hclear | ⟨hobs, -⟩
    · exact absurd (ht.trans hold) hne
    · exact fun hu => absurd (hclear.symm.trans (ht.symm.trans hu)) nofun
    · exact fun hu => absurd (hobs.symm.trans (ht.symm.trans hu)) nofun

/-- Settles O60: a step that newly sets OBSTRUCTED found the class SET_OBSTRUCTED, whose conditions these are. -/
theorem obstructedNeedsNoPulses : Obligations.ObstructedNeedsNoPulses := by
  intro s t h hs ht
  have hne : t.obst ≠ s.obst := fun e => hs (e.symm.trans ht)
  obtain ⟨k, p, x, q, turn, head, effect⟩ := step_takes_request h (.inr (.inl hne))
  rcases effect.obst_cases with hsame | ⟨-, hunknown⟩ | ⟨level, now, hi, gate, hobst, hlast⟩
  · exact absurd hsame hne
  · exact absurd (hunknown.symm.trans ht) nofun
  · obtain rfl := port_of_decode hi rfl
    rcases obstAfter_cases s.obst (s.windowClass level now) with hold | hclear | ⟨-, hclass⟩
    · exact absurd (hobst.trans hold) hne
    · exact absurd (hclear.symm.trans (hobst.symm.trans ht)) nofun
    · obtain ⟨hzero, rfl, hlong⟩ := classify_setObstructed hclass
      rw [elapsed_seen] at hlong
      exact ⟨x, q, now, turn, head, hi, hzero, hlong, gate, hlast⟩

/-! ### The logs (10_state.md R34, R35) -/

/-- `t` has the logs of `s`, each possibly longer, OUT by at most one event, and the same configuration and delivery
point. -/
def LogsGrow (s t : State) : Prop :=
  (t.out = s.out ∨ ∃ e, t.out = s.out ++ [e]) ∧ s.fault <+: t.fault ∧ s.refused <+: t.refused ∧
    s.mainResp <+: t.mainResp ∧ s.isrResp <+: t.isrResp ∧ t.config = s.config ∧ t.rxQ = s.rxQ

theorem Effect.logsGrow {i : Instr} {s t : State} (h : Effect i s t) : LogsGrow s t := by
  have same {α : Type} (l : List α) : l <+: l := List.prefix_rfl
  have more {α : Type} (l : List α) (a : α) : l <+: l ++ [a] := List.prefix_append l [a]
  cases h with
  | refused => exact ⟨.inl rfl, same _, more _ _, same _, same _, rfl, rfl⟩
  | ctrFaulted => exact ⟨.inl rfl, more _ _, same _, same _, same _, rfl, rfl⟩
  | ctrCleared | ctrLoaded | ctrRead | decDiscarded | faScanned | faSynced | faStored | obNotDue =>
    exact ⟨.inl rfl, same _, same _, more _ _, same _, rfl, rfl⟩
  | enc | decAccepted | faCompleted => exact ⟨.inr ⟨_, rfl⟩, same _, same _, more _ _, same _, rfl, rfl⟩
  | dcGuarded | dcFell | dcLatched | dcRejected | obHigh | obLow =>
    exact ⟨.inl rfl, same _, same _, same _, more _ _, rfl, rfl⟩
  | reset | dcRead | obGated => exact ⟨.inl rfl, same _, same _, same _, same _, rfl, rfl⟩
  | opcStatus | opcLightEvt | opcIdle | opcMotion | opcOther =>
    exact ⟨.inr ⟨_, rfl⟩, same _, same _, same _, same _, rfl, rfl⟩

theorem Performed.logsGrow {s u t : State} (h : Performed s u t) : LogsGrow u t := by
  cases h with
  | request p x q turn head free effect => exact effect.logsGrow
  | delivery m => exact (deliverMessage_effect m u).logsGrow
  | takeFinished | evalFinished =>
    exact ⟨.inl rfl, List.prefix_rfl, List.prefix_rfl, List.prefix_append _ _, List.prefix_rfl, rfl, rfl⟩
  | idle => exact ⟨.inl rfl, List.prefix_rfl, List.prefix_rfl, List.prefix_rfl, List.prefix_rfl, rfl, rfl⟩

/-- Settles O43: fetching a step writes no log, and what is performed only appends to them. -/
theorem logsOnlyGrow : Obligations.LogsOnlyGrow := by
  intro s t h
  obtain ⟨-, k, hk, hp⟩ := step_performed h
  obtain ⟨hout, hfault, hrefused, hmain, hisr, hconfig, hrx⟩ := hp.logsGrow
  exact ⟨hout, hfault, hrefused, hmain, hisr, hconfig, fun hs => hrx.trans (hk hs)⟩

end Sys2Proof.Machine

/-! SUPPORT. The second parts of MAIN requests and what happens at their split points (20_memory.md R70, 42_debounce.md
R174, R175, 43_obstruction.md R193, 70_reset_and_hazards.md R244). -/

namespace Sys2Proof.Machine

/-! ### MAIN finishes before it takes (20_memory.md R70) -/

theorem exists_pending {s : State} (hcount : s.pendingCount = 1) :
    (∃ ch r, s.dcTakePend.get ch = some r) ∨ ∃ c, s.obRstPend = some c := by
  by_contra hno
  rw [not_or, not_exists, not_exists] at hno
  obtain ⟨htake, heval⟩ := hno
  have hch : ∀ ch, s.dcTakePend.get ch = none := fun ch => Option.eq_none_iff_forall_ne_some.2 (not_exists.1 (htake ch))
  have hnone : Spec.NonePending s :=
    ⟨congr (congr (congrArg PerChannel.mk (hch .openContact)) (hch .closeContact)) (hch .lightContact),
      Option.eq_none_iff_forall_ne_some.2 heval⟩
  exact absurd ((pendingCount_eq_zero_iff s).2 hnone) (hcount ▸ Nat.one_ne_zero)

/-- Settles O31: one mark is pending, so MAIN's step is the second part that mark stands for. -/
theorem mainFinishesBeforeItTakes : Obligations.MainFinishesBeforeItTakes := by
  intro s hs hturn hcount
  have htake : ∀ ch r, s.dcTakePend.get ch = some r → step s = .next (dcTakeFinish ch r s.advance) :=
    fun ch r h => step_finishes_pendingTake hs hturn (pendingTake_of_get hcount h)
  have heval : ∀ c, s.obRstPend = some c → step s = .next (obEvalFinish c s.advance) :=
    fun c h => step_finishes_pendingEval hs hturn (pendingTake_of_obRstPend hcount h) h
  refine ⟨fun ch r h => ?_, heval, ?_⟩
  · rw [htake ch r h, dcTakeFinish_eq]
    rfl
  · rcases exists_pending hcount with ⟨ch, r, h⟩ | ⟨c, h⟩
    · refine ⟨_, htake ch r h, ?_⟩
      have hsum := pendingCount_dcTakeFinish ch r s.advance
      rw [State.advance_dcTakePend, h] at hsum
      exact Nat.succ.inj (hsum.trans hcount)
    · refine ⟨_, heval c h, ?_⟩
      have hsum := pendingCount_obEvalFinish c s.advance
      rw [State.advance_obRstPend, h] at hsum
      exact Nat.succ.inj (hsum.trans hcount)

/-! ### A contact event at the split of DC_TAKE (70_reset_and_hazards.md R244) -/

theorem not_guarded {s : State} (hs : s.settled = true) (now : Nat) : ¬ (s.settled = false ∧ now < 2000) :=
  fun h => absurd (hs.symm.trans h.1) nofun

theorem with_settled {s : State} (hs : s.settled = true) : { s with settled := true } = s := by
  rw [← hs]

/-- With SETTLED = 1 a falling edge records its time. -/
theorem dcEdgeEffect_fall {s : State} (hs : s.settled = true) (ch : Channel) (now : Nat) :
    dcEdgeEffect false ch now s = (s.setFallTs ch now).respondIsr .fall := by
  rw [dcEdgeEffect_settled (not_guarded hs now), if_pos rfl, with_settled hs]

/-- With SETTLED = 1 a rising edge latches exactly in the press window (42_debounce.md R171). -/
theorem dcEdgeEffect_rise {s : State} (hs : s.settled = true) (ch : Channel) (now : Nat) :
    dcEdgeEffect true ch (Spec.seen s now) s =
      if 500 < Spec.since s now (s.dcFallTs.get ch) ∧ Spec.since s now (s.dcFallTs.get ch) < 10000 then
        (s.setLatch ch true).respondIsr .latch
      else s.respondIsr .reject := by
  rw [dcEdgeEffect_settled (not_guarded hs _), if_neg (by decide), elapsed_seen, with_settled hs]
  simp only [inPressWindow_iff]

/-- On a turn of MAIN given at the split point a DC_TAKE is finished. -/
theorem step_at_split_dcTake {s : State} (hs : s.Live) {ch : Channel} {r : Bool} (hp : s.pendingTake = some (ch, r)) :
    step { s with sched := [.main] } = .next (dcTakeFinish ch r { s with sched := [] }) :=
  step_finishes_pendingTake (s := { s with sched := [.main] }) hs rfl hp

/-- An edge that latches at the split point of a DC_TAKE that has read `r`, and then part 2: the latch is set, and part
2 clears it by the policy and by `r`. -/
theorem latch_then_dcTakeFinish {s : State} (hs : s.Live) {ch : Channel} {r : Bool}
    (hp : s.pendingTake = some (ch, r)) :
    ∃ t, step { (s.setLatch ch true).respondIsr .latch with sched := [.main] } = .next t ∧
      t.mainResp = s.mainResp ++ [.taken r] ∧
      (t.dcLatch.get ch = false ↔ s.config.clearPolicy = .always ∨ r = true) := by
  refine ⟨_, step_at_split_dcTake (s := (s.setLatch ch true).respondIsr .latch) hs hp, rfl, ?_⟩
  rw [dcTakeFinish_eq]
  simp only [State.respondIsr_config, State.respondIsr_dcLatch, State.setLatch_config, State.setLatch_dcLatch]
  split_ifs with hclear <;> simp [hclear]

/-- Settles O32: the edge sets the latch part 2 clears or leaves, by the policy and the bit part 1 had read. -/
theorem contactEventLostAtTheSplit : Obligations.ContactEventLostAtTheSplit := by
  intro s ch now hs hn hsettled hmin hmax
  have hedge : dcEdgeEffect true ch (Spec.seen s now) (dcTakeRead ch s) =
      ((dcTakeRead ch s).setLatch ch true).respondIsr .latch :=
    (dcEdgeEffect_rise (s := dcTakeRead ch s) hsettled ch now).trans (if_pos ⟨hmin, hmax⟩)
  have hexec := exec_dcEdge_isr (s := dcTakeRead ch s) hs ch true now
  obtain ⟨t, hstep, hresp, hlatch⟩ :=
    latch_then_dcTakeFinish (s := dcTakeRead ch s) hs (pendingTake_setTakePend hn ch (s.dcLatch.get ch))
  exact ⟨dcTakeRead ch s, ((dcTakeRead ch s).setLatch ch true).respondIsr .latch, t, exec_dcTake_main hs ch,
    hexec.trans (congrArg _ hedge), rfl, PerChannel.get_set_same .., hstep, hresp, hlatch⟩

/-! ### A falling edge at the split of OB_EVAL (43_obstruction.md R193) -/

/-- On a turn of MAIN given at the split point a gated OB_EVAL that found `c` is finished: the count is zeroed, the
response is `c`, and OBST stays. -/
theorem step_at_split_obEval {s : State} (hs : s.Live) (htake : s.dcTakePend = ⟨none, none, none⟩) {c : WindowClass}
    (hc : s.obRstPend = some c) :
    ∃ t, step { s with sched := [.main] } = .next t ∧ t.obLowCount = 0 ∧ t.mainResp = s.mainResp ++ [.window c] ∧
      t.obst = s.obst :=
  ⟨_, step_finishes_pendingEval (s := { s with sched := [.main] }) hs rfl (pendingTake_eq_none htake) hc, rfl, rfl, rfl⟩

/-- A falling edge at the split point of an OB_EVAL that found `c`, and then part 2: the edge counts, part 2 zeroes the
count and responds `c`. -/
theorem fall_then_obEvalFinish {s : State} (hs : s.Live) (htake : s.dcTakePend = ⟨none, none, none⟩) {c : WindowClass}
    (hc : s.obRstPend = some c) (later : Nat) :
    ∃ t u, exec (.obEdge .isr false later) s = .next t ∧ t.obLowCount = (s.obLowCount + 1) % 2 ^ s.config.lowCountW ∧
      step { t with sched := [.main] } = .next u ∧ u.obLowCount = 0 ∧ u.mainResp = s.mainResp ++ [.window c] ∧
      u.obst = s.obst := by
  have hedge := exec_obEdge_isr hs false later
  rw [obEdgeEffect_low] at hedge
  obtain ⟨u, hstep, hzero, hresp, hobst⟩ := step_at_split_obEval
    (s := ((s.settle (Spec.seen s later)).setLowCount ((s.obLowCount + 1) % 2 ^ s.config.lowCountW)).respondIsr .low)
    hs htake hc
  exact ⟨_, u, hedge, rfl, hstep, hzero, hresp, hobst⟩

/-- Settles O33: the edge counts into the register part 2 zeroes, and part 2 responds what part 1 left pending. -/
theorem pulseLostAtTheSplit : Obligations.PulseLostAtTheSplit := by
  intro s level now later hs hn hgate
  have hfirst : exec (.obEval .main level now) s =
      .next (obEvalClassify (s.windowClass level now) (Spec.seen s now) (s.settle (Spec.seen s now))) := by
    rw [exec_obEval_main hs, obEvalEffect_gated hgate]
  obtain ⟨t, u, hedge, hcount, hstep, hzero, hresp, hobst⟩ :=
    fall_then_obEvalFinish
      (s := obEvalClassify (s.windowClass level now) (Spec.seen s now) (s.settle (Spec.seen s now))) hs hn.1 rfl later
  exact ⟨_, t, u, _, hfirst, rfl, hedge, hcount, hstep, hzero, hresp, hobst⟩

end Sys2Proof.Machine

/-! SUPPORT. Laws over runs and of the codec: the counter law (40_codec.md R121), the premises CODEC_RT and CODEC_CTRDEP
(R111, R113), the debounce and obstruction laws (42_debounce.md R172, R178, 43_obstruction.md R197). -/

namespace Sys2Proof.Machine

/-! ### The counter (40_codec.md R115, R121) -/

theorem execAll_cons {i : Instr} {s t : State} (h : exec i s = .next t) (is : List Instr) :
    execAll (i :: is) s = execAll is t := by
  rw [execAll, h]

/-- What an ENC adds to the counter. -/
theorem ctrAfter_toNat (hold : Bool) (c : Counter) :
    (ctrAfter hold c).toNat = (c.toNat + if hold then 0 else 1) % 2 ^ 28 := by
  cases hold with
  | true => exact (Nat.mod_eq_of_lt c.isLt).symm
  | false => exact BitVec.toNat_add c 1

/-- Settles O50, by induction on the list of requests. -/
theorem counterLaw : Obligations.CounterLaw := by
  intro l
  induction l with
  | nil => exact fun s hs => ⟨s, rfl, (Nat.mod_eq_of_lt s.ctr.isLt).symm, rfl, hs⟩
  | cons x l ih =>
    intro s hs
    obtain ⟨t, hrun, hctr, hout, hlive⟩ := ih (encEffect Config.wireCodec x.1 x.2.1 x.2.2 s) hs
    refine ⟨t, (execAll_cons (exec_enc_main hs ..) _).trans hrun, ?_, ?_, hlive⟩
    · have hstep : (encEffect Config.wireCodec x.1 x.2.1 x.2.2 s).ctr = ctrAfter x.2.2 s.ctr := rfl
      rw [hctr, hstep, ctrAfter_toNat, Nat.mod_add_mod]
      cases hx : x.2.2 <;> simp [hx, Nat.add_assoc, Nat.add_comm 1]
    · rw [hout]
      simp [encEffect, Nat.add_assoc, Nat.add_comm 1]

/-! ### The codec's premises (40_codec.md R111, R113) -/

/-- Under CODEC_RT a frame decodes to what it was made of. -/
theorem decodedOf_frameOf {wc : Config.WireCodec} (hrt : Config.CodecRT wc) (c : Counter) (f : Fixed) (d : Data) :
    decodedOf wc (frameOf wc c f d) = ⟨c, f, d⟩ := by
  rw [decodedOf, payload_frameOf, hrt]

/-- Settles O51: DEC accepts a frame that ENC made, and delivers what it decodes to. -/
theorem encThenDecRoundTrips : Obligations.EncThenDecRoundTrips := by
  intro wc hrt s f d hold
  have hdec : decEffect wc (frameOf wc s.ctr (withDeviceId f) d) (encEffect wc f d hold s) =
      ((encEffect wc f d hold s).deliverMessage ⟨s.ctr, withDeviceId f, d⟩).respondMain .accept := by
    rw [decEffect, if_pos (preambleOk_frameOf ..), State.deliver, decodedOf_frameOf hrt]
  refine ⟨frameOf wc s.ctr (withDeviceId f) d, rfl, ?_, ?_⟩
  · rw [hdec]
    exact List.append_assoc ..
  · rw [hdec]
    exact List.append_assoc ..

/-- Settles O52: the first ENC of the pair holds the counter, so the second uses it again. -/
theorem doorTogglePairSharesItsCounter : Obligations.DoorTogglePairSharesItsCounter := by
  intro wc hrt s f1 f2 d1 d2
  refine ⟨frameOf wc s.ctr (withDeviceId f1) d1, frameOf wc s.ctr (withDeviceId f2) d2, List.append_assoc .., rfl,
    ?_, ?_⟩
  · rw [payload_frameOf, hrt]
  · rw [payload_frameOf, hrt]

/-- Settles O53: a preamble byte is the same in both frames, and payload byte i - 3 is not in the set. -/
theorem framesDifferOnlyInCounterBytes : Obligations.FramesDifferOnlyInCounterBytes := by
  intro wc dep hdep c c' f d i hi
  refine (getElem_frameOf wc c f d i.val i.isLt).trans (Eq.trans ?_ (getElem_frameOf wc c' f d i.val i.isLt).symm)
  split_ifs with hpre
  · rfl
  · have hlt : i.val - 3 < 16 := by omega
    exact hdep c c' f d ⟨i.val - 3, hlt⟩ fun hmem => hi _ hmem (by change i.val = 3 + (i.val - 3); omega)

/-! ### The debounce laws (42_debounce.md R172, R178) -/

/-- Of two times less than 2^TIME_W apart the elapsed time is their difference. -/
theorem since_add (s : State) (t0 e : Nat) (he : e < 2 ^ s.config.timeW) :
    Spec.since s (t0 + e) (Spec.seen s t0) = e := by
  have hmod : (((t0 + e : Nat) : Int) - (Spec.seen s t0 : Nat)) % 2 ^ s.config.timeW = e := by
    have hcast : ((2 : Int) ^ s.config.timeW) = ((2 ^ s.config.timeW : Nat) : Int) := by push_cast; rfl
    rw [Spec.seen, Int.natCast_mod, ← hcast, Int.sub_emod, Int.emod_emod_of_dvd _ (dvd_refl _), ← Int.sub_emod,
      Nat.cast_add, add_sub_cancel_left, hcast, ← Int.natCast_mod, Nat.mod_eq_of_lt he]
  rw [Spec.since, hmod, Int.toNat_natCast]

/-- Settles O57: the falling edge records t0, and the rising edge latches when the difference is in the press window. -/
theorem debounceLaw : Obligations.DebounceLaw := by
  intro s ch t0 e hs hsettled hlatch he
  let u := (s.setFallTs ch (Spec.seen s t0)).respondIsr .fall
  have hfall : exec (.dcEdge .isr ch.code false t0) s = .next u := by
    rw [exec_dcEdge_isr hs, dcEdgeEffect_fall hsettled]
  have hrise := exec_dcEdge_isr (s := u) hs ch true (t0 + e)
  have helapsed : Spec.since u (t0 + e) (u.dcFallTs.get ch) = e := by
    have hts : u.dcFallTs.get ch = Spec.seen s t0 := PerChannel.get_set_same ..
    rw [hts]
    exact since_add s t0 e he
  rw [dcEdgeEffect_rise (s := u) hsettled, helapsed] at hrise
  refine ⟨u, _, hfall, hrise, ?_⟩
  have hu : u.dcLatch.get ch = false := hlatch
  split_ifs with hwindow <;> simp [hwindow, hu]

/-- Settles O58, by induction on the list of edges: each is answered GUARDED and leaves the guard as it was. -/
theorem edgesInTheGuardAreIgnored : Obligations.EdgesInTheGuardAreIgnored := by
  intro l
  induction l with
  | nil => intro s _ _ _; simp [execAll]
  | cons x l ih =>
    intro s hs hsettled hearly
    have hseen : Spec.seen s x.2.2 < 2000 := (Nat.mod_le _ _).trans_lt (hearly x List.mem_cons_self)
    have hedge : exec (.dcEdge .isr x.1.code x.2.1 x.2.2) s = .next (s.respondIsr .guarded) := by
      rw [exec_dcEdge_isr hs, dcEdgeEffect_guarded ⟨hsettled, hseen⟩]
    have hrest := ih (s.respondIsr .guarded) hs hsettled fun y hy => hearly y (List.mem_cons_of_mem x hy)
    rw [List.map_cons, execAll_cons hedge, hrest]
    simp [State.respondIsr, List.replicate_succ]

/-! ### The obstruction laws (43_obstruction.md R197) -/

/-- Settles O59: of the four cases of the classification one applies to each premise. -/
theorem obstructionLaws : Obligations.ObstructionLaws := by
  intro s t level now hgate h
  have hobst : t.obst = obstAfter s.obst (s.windowClass level now) := by
    obtain ⟨-, rfl⟩ := (exec_eq_next_iff _ s t).1 h
    rw [effectOf, onPort_same portOf_obEval, withTime, obEvalEffect_gated hgate]
    rfl
  rw [hobst]
  rcases windowClass_cases s level now with ⟨⟨hmin, hmax⟩, -, e⟩ | ⟨⟨hzero, hlevel, hlong⟩, -, e⟩ |
    ⟨⟨hzero, hnot⟩, -, e⟩ | ⟨hcount, -, e⟩ <;> rw [e]
  · exact ⟨fun _ => rfl, fun h0 => by omega, fun h0 => by omega⟩
  · exact ⟨fun h5 => by omega, fun _ _ _ => rfl, fun _ _ h50 => by omega⟩
  · exact ⟨fun h5 => by omega, fun _ hl hlong => absurd ⟨hl, hlong⟩ hnot, fun _ _ _ => rfl⟩
  · exact ⟨fun h5 => by omega, fun h0 => by omega, fun h0 => by omega⟩

end Sys2Proof.Machine

/-! SUPPORT. The frame assembler over byte sequences (41_frame_assembler.md R151 to R155): the shift register holds the
last three bytes, a capture stores sixteen more and delivers them. -/

namespace Sys2Proof.Machine

/-! ### Feeding bytes -/

theorem live_faByteEffect {s : State} (hs : s.Live) (b : Byte) : (faByteEffect Config.wireCodec b s).Live :=
  ⟨(faByteEffect_fault ..).trans hs.1, (faByteEffect_refused ..).trans hs.2⟩

theorem feed_cons {s : State} (hs : s.Live) (b : Byte) (bs : List Byte) :
    feed (b :: bs) s = feed bs (faByteEffect Config.wireCodec b s) :=
  execAll_cons (exec_faByte_main hs b) _

/-- Bytes always complete, with one response for each (30_encoding.md R87). -/
theorem feed_completes (bs : List Byte) {s : State} (hs : s.Live) :
    ∃ t, feed bs s = .next t ∧ s.mainResp <+: t.mainResp := by
  induction bs generalizing s with
  | nil => exact ⟨s, rfl, List.prefix_rfl⟩
  | cons b bs ih =>
    obtain ⟨t, hrun, hprefix⟩ := ih (live_faByteEffect hs b)
    obtain ⟨-, -, -, hmain, -⟩ := (faByteEffect_effect b s).logsGrow
    exact ⟨t, (feed_cons hs b bs).trans hrun, hmain.trans hprefix⟩

/-! ### The shift register (20_memory.md R62) -/

/-- A byte is shifted in at the low end. -/
theorem shiftIn_toNat (sh : BitVec 24) (b : Byte) :
    (shiftIn sh b).toNat = sh.toNat * 256 % 2 ^ 24 + b.toNat := by
  have hb : b.toNat < 2 ^ 8 := b.isLt
  have hsh : sh.toNat <<< 8 % 2 ^ 24 = (sh.toNat % 2 ^ 16) <<< 8 := by
    rw [Nat.shiftLeft_eq, Nat.shiftLeft_eq]
    omega
  rw [shiftIn, BitVec.toNat_or, BitVec.toNat_shiftLeft, BitVec.toNat_setWidth,
    Nat.mod_eq_of_lt (show b.toNat < 2 ^ 24 by omega), hsh,
    ← Nat.shiftLeft_add_eq_or_of_lt hb, Nat.shiftLeft_eq]
  omega

/-- After three bytes the register holds them, whatever it held before. -/
theorem shiftIn_three_eq_preamble_iff (sh : BitVec 24) (a b c : Byte) :
    shiftIn (shiftIn (shiftIn sh a) b) c = 0x550100#24 ↔ a = 0x55#8 ∧ b = 0x01#8 ∧ c = 0x00#8 := by
  have ha := a.isLt
  have hb := b.isLt
  have hc := c.isLt
  simp only [← BitVec.toNat_inj, shiftIn_toNat, BitVec.toNat_ofNat]
  omega

theorem shiftIn_two_zero_ne_preamble (a b : Byte) : shiftIn (shiftIn 0#24 a) b ≠ 0x550100#24 := by
  have ha := a.isLt
  have hb := b.isLt
  simp only [ne_eq, ← BitVec.toNat_inj, shiftIn_toNat, BitVec.toNat_ofNat]
  omega

/-- The low byte of the preamble is 0, so a byte that is not 0 never completes it. -/
theorem shiftIn_ne_preamble {b : Byte} (hb : b ≠ 0x00#8) (sh : BitVec 24) : shiftIn sh b ≠ 0x550100#24 := by
  have hlt := b.isLt
  simp only [ne_eq, ← BitVec.toNat_inj, shiftIn_toNat, BitVec.toNat_ofNat] at hb ⊢
  omega

/-! ### A capture (41_frame_assembler.md R151, R152) -/

/-- FA_BUF up to and with the byte just stored. -/
theorem take_captured (buf : Frame) (count : BitVec 5) (b : Byte) (h : count.toNat < 19) :
    (captured buf count b).toList.take (count.toNat + 1) = buf.toList.take count.toNat ++ [b] := by
  have hlen : count.toNat < (buf.toList.set count.toNat b).length := by simpa using h
  rw [captured_eq_set buf count b h, Vector.toList_set, List.take_succ_eq_append_getElem hlen,
    List.take_set_of_le le_rfl, List.getElem_set_self]

/-- The bytes that complete a capture give STORED for each but the last, and one delivery of the whole frame. -/
theorem feed_capturing (bs : List Byte) :
    ∀ (b : Byte) (s : State) (fr : Frame), s.Live → s.faMode = .capturing → s.faCount.toNat + (b :: bs).length = 19 →
      fr.toList = s.faBuf.toList.take s.faCount.toNat ++ b :: bs →
        ∃ t, feed (b :: bs) s = .next t ∧ t.out = s.out ++ [Spec.delivered fr] ∧ t.faMode = .scanning ∧
          t.faCount = 0 ∧ t.mainResp = s.mainResp ++ List.replicate bs.length .stored ++ [.frameDone] := by
  induction bs with
  | nil =>
    intro b s fr hs hm hcount hfr
    have hlast : s.faCount.toNat = 18 := by simpa using hcount
    have hbuf : captured s.faBuf s.faCount b = fr := by
      have htake := take_captured s.faBuf s.faCount b (by omega)
      rw [← hfr, List.take_of_length_le (by simp [hlast])] at htake
      exact Vector.toList_inj.1 htake
    refine ⟨_, feed_cons hs b [], ?_⟩
    rw [faByteEffect_capturing hm, faCapture_last hlast, hbuf, faComplete_wireCodec]
    exact ⟨rfl, rfl, rfl, by simp⟩
  | cons c bs ih =>
    intro b s fr hs hm hcount hfr
    simp only [List.length_cons] at hcount
    have hstored := faCapture_not_last hm (by omega) Config.wireCodec b
    have hnext : (BitVec.ofNat 5 (s.faCount.toNat + 1)).toNat = s.faCount.toNat + 1 := Nat.mod_eq_of_lt (by omega)
    have hs' := live_faByteEffect hs b
    rw [faByteEffect_capturing hm, hstored] at hs'
    rw [feed_cons hs, faByteEffect_capturing hm, hstored]
    obtain ⟨t, hrun, hout, hmode, hzero, hresp⟩ := ih c _ fr hs' hm
      (by rw [State.respondMain_faCount, State.setFa_faCount, hnext, List.length_cons]; omega)
      (by
        rw [State.respondMain_faCount, State.setFa_faCount, State.respondMain_faBuf, State.setFa_faBuf, hnext,
          take_captured _ _ _ (by omega), hfr, List.append_assoc, List.singleton_append])
    refine ⟨t, hrun, hout, hmode, hzero, hresp.trans ?_⟩
    simp [List.replicate_succ]

/-! ### A whole frame from SCANNING -/

/-- What a byte that does not complete the preamble leaves: it is shifted in and answered SCAN. -/
def State.scanned (b : Byte) (s : State) : State :=
  (s.setFa s.faMode (shiftIn s.faShift b) s.faCount s.faBuf).respondMain .scan

@[simp] theorem State.scanned_out (b : Byte) (s : State) : (s.scanned b).out = s.out := rfl
@[simp] theorem State.scanned_mainResp (b : Byte) (s : State) :
    (s.scanned b).mainResp = s.mainResp ++ [.scan] := rfl
@[simp] theorem State.scanned_faMode (b : Byte) (s : State) : (s.scanned b).faMode = s.faMode := rfl
@[simp] theorem State.scanned_faShift (b : Byte) (s : State) : (s.scanned b).faShift = shiftIn s.faShift b := rfl
@[simp] theorem State.scanned_faCount (b : Byte) (s : State) : (s.scanned b).faCount = s.faCount := rfl
@[simp] theorem State.scanned_faBuf (b : Byte) (s : State) : (s.scanned b).faBuf = s.faBuf := rfl

theorem feed_cons_scan {s : State} (hs : s.Live) (hm : s.faMode = .scanning) {b : Byte}
    (h : shiftIn s.faShift b ≠ 0x550100#24) (bs : List Byte) : feed (b :: bs) s = feed bs (s.scanned b) := by
  rw [feed_cons hs, faByteEffect_scanning hm, faScan_no_match hm h, State.scanned]

/-- The byte that completes the preamble starts a capture and is answered SYNC. -/
theorem feed_cons_sync {s : State} (hs : s.Live) (hm : s.faMode = .scanning) {b : Byte}
    (h : shiftIn s.faShift b = 0x550100#24) (bs : List Byte) :
    feed (b :: bs) s =
      feed bs ((s.setFa .capturing (shiftIn s.faShift b) 3
        (((s.faBuf.set 0 0x55).set 1 0x01).set 2 0x00)).respondMain .sync) := by
  rw [feed_cons hs, faByteEffect_scanning hm, faScan_match h]

theorem take_three_preamble (buf : Frame) :
    (((buf.set 0 0x55).set 1 0x01).set 2 0x00).toList.take 3 = [0x55#8, 0x01#8, 0x00#8] := by
  obtain ⟨⟨l⟩, hl⟩ := buf
  match l, hl with
  | a :: b :: c :: l, hl => simp

/-- From SCANNING, whatever FA_SHIFT holds, the three preamble bytes start a capture. -/
theorem feed_preamble {s : State} (hs : s.Live) (hm : s.faMode = .scanning) (bs : List Byte) :
    ∃ u : State, feed (0x55#8 :: 0x01#8 :: 0x00#8 :: bs) s = feed bs u ∧ u.Live ∧ u.faMode = .capturing ∧
      u.faCount = 3#5 ∧ u.faBuf.toList.take 3 = [0x55#8, 0x01#8, 0x00#8] ∧ u.out = s.out ∧
      u.mainResp = s.mainResp ++ [.scan, .scan, .sync] := by
  have hsync : shiftIn ((s.scanned 0x55#8).scanned 0x01#8).faShift 0x00#8 = 0x550100#24 :=
    (shiftIn_three_eq_preamble_iff s.faShift 0x55#8 0x01#8 0x00#8).2 ⟨rfl, rfl, rfl⟩
  rw [feed_cons_scan hs hm (shiftIn_ne_preamble (by decide) _),
    feed_cons_scan (s := s.scanned 0x55#8) hs hm (shiftIn_ne_preamble (by decide) _),
    feed_cons_sync (s := (s.scanned 0x55#8).scanned 0x01#8) hs hm hsync]
  refine ⟨_, rfl, hs, rfl, rfl, take_three_preamble _, rfl, ?_⟩
  simp

/-- Settles O54: the preamble starts a capture, and the sixteen bytes after it complete it. -/
theorem nineteenBytesMakeOneFrame : Obligations.NineteenBytesMakeOneFrame := by
  intro s bs h hs hm
  obtain ⟨u, hstart, hlive, hmode, hcount, hbuf, hout, hresp⟩ := feed_preamble hs hm bs
  have hlen : bs.length = 16 := by simpa using h
  obtain ⟨b, rest, rfl⟩ := List.exists_cons_of_length_eq_add_one hlen
  have hrest : rest.length = 15 := by simpa using hlen
  obtain ⟨t, hrun, ht⟩ := feed_capturing rest b u ⟨_, h⟩ hlive hmode (by rw [hcount, hlen]; rfl) (by
    rw [hcount]
    exact congrArg (· ++ b :: rest) hbuf.symm)
  rw [hout, hresp, hrest] at ht
  exact ⟨t, hstart.trans hrun, ht⟩

/-! ### Whether completion clears FA_SHIFT (41_frame_assembler.md R154) -/

/-- The first byte after either value of FA_SHIFT completes no preamble. -/
theorem shiftIn_cleared_ne_preamble {sh : BitVec 24} (hsh : sh = 0 ∨ sh = 0x550100) (b : Byte) :
    shiftIn sh b ≠ 0x550100#24 := by
  have hb := b.isLt
  rcases hsh with rfl | rfl <;>
  · simp only [ne_eq, ← BitVec.toNat_inj, shiftIn_toNat, BitVec.ofNat_eq_ofNat, BitVec.toNat_ofNat]
    omega

/-- After two bytes the two values of FA_SHIFT are forgotten. -/
theorem shiftIn_two_cleared (b c : Byte) :
    shiftIn (shiftIn 0x550100 b) c = shiftIn (shiftIn 0 b) c := by
  have hb := b.isLt
  have hc := c.isLt
  simp only [← BitVec.toNat_inj, shiftIn_toNat, BitVec.ofNat_eq_ofNat, BitVec.toNat_ofNat]
  omega

theorem faScan_withShift {s : State} {sh : BitVec 24} {b : Byte} (h : shiftIn sh b = shiftIn s.faShift b) :
    faScan b { s with faShift := sh } = faScan b s := by
  unfold faScan
  simp only [h]
  rfl

/-- Two bytes after either value of FA_SHIFT leave one and the same state. -/
theorem feed_two_cleared {s : State} (hs : s.Live) (hm : s.faMode = .scanning) (b c : Byte) (bs : List Byte) :
    feed (b :: c :: bs) { s with faShift := 0x550100 } = feed (b :: c :: bs) { s with faShift := 0 } := by
  have hscan : faScan c (State.scanned b { s with faShift := 0x550100 }) =
      faScan c (State.scanned b { s with faShift := 0 }) :=
    faScan_withShift (s := State.scanned b { s with faShift := 0 }) (shiftIn_two_cleared b c)
  rw [feed_cons_scan (s := { s with faShift := 0x550100 }) hs hm (shiftIn_cleared_ne_preamble (.inr rfl) b),
    feed_cons_scan (s := { s with faShift := 0 }) hs hm (shiftIn_cleared_ne_preamble (.inl rfl) b),
    feed_cons (s := State.scanned b { s with faShift := 0x550100 }) hs,
    feed_cons (s := State.scanned b { s with faShift := 0 }) hs,
    faByteEffect_scanning (s := State.scanned b { s with faShift := 0x550100 }) hm,
    faByteEffect_scanning (s := State.scanned b { s with faShift := 0 }) hm, hscan]

/-- Settles O55: the first byte is answered SCAN from both values, and the second leaves one and the same state. -/
theorem shiftClearIsUnobservable : Obligations.ShiftClearIsUnobservable := by
  intro bs s hs hm
  match bs with
  | [] => exact ⟨_, _, rfl, rfl, rfl, rfl, rfl, rfl, rfl⟩
  | [b] =>
    refine ⟨_, _, feed_cons_scan (s := { s with faShift := 0 }) hs hm (shiftIn_cleared_ne_preamble (.inl rfl) b) [],
      feed_cons_scan (s := { s with faShift := 0x550100 }) hs hm (shiftIn_cleared_ne_preamble (.inr rfl) b) [], ?_⟩
    simp
  | b :: c :: bs =>
    obtain ⟨t, hrun, -⟩ := feed_completes (b :: c :: bs) (s := { s with faShift := 0 }) hs
    exact ⟨t, t, hrun, (feed_two_cleared hs hm b c bs).trans hrun, rfl, rfl, rfl, rfl, rfl⟩

/-! ### SCANNING until the preamble (41_frame_assembler.md R155) -/

/-- Every byte is answered SCAN exactly when no byte completes the preamble in FA_SHIFT. -/
theorem feed_all_scan_iff (bs : List Byte) :
    ∀ s : State, s.Live → s.faMode = .scanning →
      ((∃ t, feed bs s = .next t ∧ t.mainResp = s.mainResp ++ List.replicate bs.length .scan) ↔
        ∀ p, p <+: bs → p ≠ [] → p.foldl shiftIn s.faShift ≠ 0x550100#24) := by
  induction bs with
  | nil =>
    intro s _ _
    refine ⟨fun _ p hp hne => absurd (List.prefix_nil.1 hp) hne, fun _ => ⟨s, rfl, by simp⟩⟩
  | cons b bs ih =>
    intro s hs hm
    by_cases hb : shiftIn s.faShift b = 0x550100#24
    · refine ⟨fun ⟨t, hrun, hresp⟩ => ?_, fun h => absurd hb (h [b] ⟨bs, rfl⟩ (List.cons_ne_nil b []))⟩
      rw [feed_cons_sync hs hm hb] at hrun
      obtain ⟨t', hrun', rs, hrs⟩ := feed_completes bs
        (s := (s.setFa .capturing (shiftIn s.faShift b) 3
          (((s.faBuf.set 0 0x55).set 1 0x01).set 2 0x00)).respondMain .sync) hs
      obtain rfl := Host.Outcome.next.inj (hrun'.symm.trans hrun)
      rw [← hrs] at hresp
      simp [List.replicate_succ] at hresp
    · have hnext := ih (s.scanned b) hs hm
      rw [feed_cons_scan hs hm hb]
      refine Iff.trans ?_ (hnext.trans ?_)
      · simp [List.replicate_succ]
      · rw [State.scanned_faShift]
        constructor
        · intro h p hp hne
          rcases List.prefix_cons_iff.1 hp with rfl | ⟨q, rfl, hq⟩
          · exact absurd rfl hne
          · by_cases hnil : q = []
            · subst hnil
              exact hb
            · exact h q hq hnil
        · intro h p hp _
          exact h (b :: p) (List.cons_prefix_cons.2 ⟨rfl, hp⟩) (List.cons_ne_nil b p)

/-- Newest byte first: the register of an empty start holds the preamble exactly when the last three bytes are it. -/
theorem foldr_shiftIn_eq_preamble_iff (r : List Byte) :
    r.foldr (fun b sh => shiftIn sh b) 0x000000#24 = 0x550100#24 ↔ [0x00#8, 0x01#8, 0x55#8] <+: r := by
  match r with
  | [] => simp
  | [c] => simpa using shiftIn_cleared_ne_preamble (.inl rfl) c
  | [c, b] => simpa using shiftIn_two_zero_ne_preamble b c
  | c :: b :: a :: r =>
    simp only [List.foldr_cons, shiftIn_three_eq_preamble_iff, List.cons_prefix_cons, List.nil_prefix, and_true]
    exact ⟨fun ⟨ha, hb, hc⟩ => ⟨hc.symm, hb.symm, ha.symm⟩, fun ⟨hc, hb, ha⟩ => ⟨ha.symm, hb.symm, hc.symm⟩⟩

theorem foldl_shiftIn_eq_preamble_iff (p : List Byte) :
    p.foldl shiftIn 0x000000#24 = 0x550100#24 ↔ [0x55#8, 0x01#8, 0x00#8] <:+ p := by
  rw [← List.reverse_prefix, ← List.foldr_reverse]
  exact foldr_shiftIn_eq_preamble_iff p.reverse

/-- Settles O56: the register matches after a beginning of the bytes exactly when that beginning ends in the
preamble. -/
theorem scanningUntilThePreamble : Obligations.ScanningUntilThePreamble := by
  intro bs s hs hm hshift
  rw [feed_all_scan_iff bs s hs hm, hshift, List.infix_iff_suffix_prefix]
  constructor
  · rintro h ⟨p, hsuffix, hprefix⟩
    exact h p hprefix (fun e => by simp [e] at hsuffix) ((foldl_shiftIn_eq_preamble_iff p).2 hsuffix)
  · intro h p hprefix _ heq
    exact h ⟨p, (foldl_shiftIn_eq_preamble_iff p).1 heq, hprefix⟩

end Sys2Proof.Machine

/-! SUPPORT. The tables of 30_encoding.md, RESET, the opcode rows, and what a step runs. -/

namespace Sys2Proof.Machine

/-! ### The tables (30_encoding.md R82, R93) -/

/-- Settles O4: each word runs through the decoder. -/
theorem writtenWordsDecode : Obligations.WrittenWordsDecode := by
  unfold Obligations.WrittenWordsDecode
  decide

/-- Settles O5: the two tables agree on each of the sixteen ops. -/
theorem opMapPorts : Obligations.OpMapPorts := portOf_eq_namedPort

/-- Settles O7: the four comparisons of the class table, one after another. -/
theorem opcodeClassTable : Obligations.OpcodeClassTable := by
  intro opc
  unfold cls
  split_ifs with hstatus hlight hidle hmotion
  · subst hstatus; decide
  · subst hlight; decide
  · subst hidle; decide
  · subst hmotion; decide
  · simp_all

/-! ### RESET (70_reset_and_hazards.md R240) -/

/-- Settles O8: on RST the effect of RESET is to write every register. -/
theorem resetGivesTheResetState : Obligations.ResetGivesTheResetState := by
  intro s hs
  rw [exec_live hs, effectOf, onPort_same portOf_reset]
  rfl

/-- Settles O49: the state after power-on, register by register. -/
theorem invariantsHoldAtReset : Obligations.InvariantsHoldAtReset :=
  ⟨by decide, by decide, by decide, by decide, by decide, by decide, by decide, rfl, rfl,
    resetGivesTheResetState State.reset ⟨rfl, rfl⟩⟩

/-! ### The opcode rows (30_encoding.md R93) -/

/-- The class the spec gives a message made around an opcode is that of the opcode. -/
theorem classOf_messageOf (opc : ProtoOpcode) (c : Counter) (hi : BitVec 4) (lo : BitVec 32) (d : BitVec 24) :
    Spec.classOf ((messageOf opc c hi lo d).fixed.extractLsb' 32 4 ++ (messageOf opc c hi lo d).data.extractLsb' 0 8) =
      Spec.classOf opc :=
  congrArg Spec.classOf (Laws.OpBits.protoOpcode_messageOf opc c hi lo d)

/-- Settles O20: each row delivers the message it carries, and a message made around an opcode has that opcode. -/
theorem protocolRowsDeliver : Obligations.ProtocolRowsDeliver := by
  intro s c hi lo d f dd hs
  exact ⟨exec_live hs (.opcStatus c hi lo d), classOf_messageOf Config.opcStatus c hi lo d,
    exec_live hs (.opcLightEvt c hi lo d), classOf_messageOf Config.opcLightEvt c hi lo d,
    exec_live hs (.opcIdle c hi lo d), classOf_messageOf Config.opcIdle c hi lo d,
    exec_live hs (.opcMotion c hi lo d), classOf_messageOf Config.opcMotion c hi lo d,
    exec_live hs (.opcOther c f dd)⟩

/-- Settles O21: whatever its class, the row of a message delivers it, as DEC does. -/
theorem decRunsTheOpcodeRowOfItsMessage : Obligations.DecRunsTheOpcodeRowOfItsMessage := by
  intro s fr hs h0 h1 h2
  refine ⟨s.deliver Config.wireCodec fr, ?_, ?_⟩
  · rw [exec_live hs]
    exact congrArg _ (effectOf_decodeMessage _ s)
  · rw [exec_dec_main hs, decEffect_preamble ⟨h0, h1, h2⟩]
    rfl

/-! ### What a step runs (20_memory.md R70, 60_exceptions.md R222) -/

/-- The host's duty on time, as the obligations say it. -/
theorem timeLawful_iff (s : State) (i : Instr) (clock : Nat) :
    s.timeLawful i clock = true ↔ Spec.TimeKept s i clock := by
  unfold State.timeLawful Spec.TimeKept
  cases i.timestamp with
  | none => simp
  | some now =>
    cases s.hostClock with
    | none => simp [clockFollows]
    | some last => simp [clockFollows]

/-- Taking an issued instruction, performed: it runs on the state with the clock read, or the host has no move. -/
theorem takes_of_takeAt {s u : State} {i : Instr} {clock : Nat} (hstep : step s = perform (takeAt i clock u))
    (hclock : u.hostClock = s.hostClock) (hconfig : u.config = s.config) (hlive : s.Live → u.Live) :
    Spec.Takes s i clock u := by
  have hlawful : u.timeLawful i clock = true ↔ Spec.TimeKept s i clock := by
    rw [timeLawful_iff, Spec.TimeKept, Spec.TimeKept, hclock, hconfig]
  constructor
  · intro hkept
    rw [hstep, takeAt, if_pos (hlawful.2 hkept), State.tick_eq, hclock]
    cases i.timestamp <;> rfl
  · intro hs hbroke
    rw [hstep, takeAt, if_neg (mt hlawful.1 hbroke)]
    exact if_neg (by rw [(quiescent_eq_false_iff u).2 (hlive hs)]; decide)

/-- Settles O29: fetch picks the source of the turn, and each source has its own next action. -/
theorem stepRunsTheDecodedInstruction : Obligations.StepRunsTheDecodedInstruction := by
  intro s x m q ms
  refine ⟨fun hturn hn hq => ?_, fun hturn hq => ?_, fun hturn hq => ?_, fun hturn hq => ?_, fun hturn hs hb => ?_,
    fun hturn hs hb => ?_, fun hturn hs => ?_⟩
  · have htake : s.advance.pendingTake = none := pendingTake_eq_none hn.1
    have hstep : step s = perform (takeAt (decode (.request .main x.record)) x.clock (s.advance.setMainQ q)) := by
      rw [step, fetch, hturn]
      simp only [fetchMain, htake, State.advance_obRstPend, hn.2, State.advance_mainQ, hq]
    exact takes_of_takeAt hstep rfl rfl id
  · have hstep : step s = perform (takeAt (decode (.request .isr x.record)) x.clock (s.advance.setIsrQ q)) := by
      rw [step, fetch, hturn]
      simp only [fetchIsr, State.advance_isrQ, hq]
    exact takes_of_takeAt hstep rfl rfl id
  · have hstep : step s = perform (takeAt (decode (.request .rst x.record)) x.clock (s.advance.setRstQ q)) := by
      rw [step, fetch, hturn]
      simp only [fetchRst, State.advance_rstQ, hq]
    exact takes_of_takeAt hstep rfl rfl id
  · rw [step, fetch, hturn]
    simp only [fetchDelivery, State.advance_rxQ, hq]
    rfl
  · rw [step, fetch, hturn]
    simp only [fetchLineStart, State.advance_lineBusy, hb]
    exact gate_live (s := s.advance.setLineBusy true) hs id
  · rw [step, fetch, hturn]
    simp only [fetchLineStart, State.advance_lineBusy, hb]
    exact if_neg (by rw [(quiescent_eq_false_iff s.advance).2 hs]; decide)
  · rw [step, fetch, hturn]
    exact gate_live (s := s.advance.setLineBusy false) hs id

/-! ### Placing a table word (log entry 15) -/

theorem decodeTableWord_eq_decode (w : Nat) (hw : w < 16) :
    decodeTableWord 8 w = some (decode (inputOfTableWord 8 w)) := by
  revert w
  decide

/-- What the step after placing an input runs, and on which state. -/
theorem exists_step_place (inp : Input) (s : State) :
    ∃ p o h, step (s.place inp) = exec (decode inp) { s with dcTakePend := p, obRstPend := o, hostClock := h } ∧
      (p = s.dcTakePend ∧ o = s.obRstPend ∨ p = ⟨none, none, none⟩ ∧ o = none) ∧
      ((decode inp).timestamp = none → h = s.hostClock) := by
  rw [step_place]
  cases inp with
  | message m => exact ⟨s.dcTakePend, s.obRstPend, s.hostClock, rfl, .inl ⟨rfl, rfl⟩, fun _ => rfl⟩
  | request port r =>
    have hkept : ∀ clock : Option Nat, (decodeRequest port r).timestamp = none →
        (if (decodeRequest port r).timestamp.isSome then clock else s.hostClock) = s.hostClock :=
      fun _ h => by rw [h]; rfl
    cases port with
    | main =>
      simp only [State.tick_eq]
      exact ⟨⟨none, none, none⟩, none, _, rfl, .inr ⟨rfl, rfl⟩, hkept _⟩
    | isr | rst =>
      simp only [State.tick_eq]
      exact ⟨s.dcTakePend, s.obRstPend, _, rfl, .inl ⟨rfl, rfl⟩, hkept _⟩

/-- Settles O30: the decoder reads from a table word the input that is placed for it. -/
theorem placedWordRunsNext : Obligations.PlacedWordRunsNext := by
  intro s w hw
  obtain ⟨p, o, h, hstep, hpend, hclock⟩ := exists_step_place (inputOfTableWord 8 w) s
  exact ⟨_, p, o, h, decodeTableWord_eq_decode w hw, hstep, hpend, hclock⟩

end Sys2Proof.Machine
